-- ==== Sys2Proof/Word.lean ====
section
/-! DEFINITION. The word types (spec R12) and the two fixed-size shapes the core's registers come in: four of a kind,
and a 4-by-4 grid; and a linear sequence of sixteen, kept as a type of its own so that a block (linear order) and a
state matrix (rows and columns) can never be taken for each other. -/

namespace Sys2Proof

/-- A byte, 8 bits unsigned (R12). -/
abbrev Byte := BitVec 8

/-- A word, 32 bits unsigned (R12). -/
abbrev Word := BitVec 32

/-- Four values of a kind, numbered 0 to 3. -/
@[ext] structure Quad (α : Type) where
  x0 : α
  x1 : α
  x2 : α
  x3 : α
deriving DecidableEq, Repr

/-- Value number `i`. -/
def Quad.get {α : Type} (q : Quad α) (i : Fin 4) : α :=
  match i with
  | 0 => q.x0
  | 1 => q.x1
  | 2 => q.x2
  | 3 => q.x3

/-- The four values `f 0` to `f 3`. -/
def Quad.ofFn {α : Type} (f : Fin 4 → α) : Quad α :=
  { x0 := f 0, x1 := f 1, x2 := f 2, x3 := f 3 }

/-- `f` on each of the four. -/
def Quad.map {α β : Type} (f : α → β) (q : Quad α) : Quad β :=
  { x0 := f q.x0, x1 := f q.x1, x2 := f q.x2, x3 := f q.x3 }

/-- The four values as a list, number 0 first. -/
def Quad.toList {α : Type} (q : Quad α) : List α := [q.x0, q.x1, q.x2, q.x3]

/-- All four values, if each of the four holds one. -/
def Quad.all? {α : Type} (q : Quad (Option α)) : Option (Quad α) :=
  match q.x0, q.x1, q.x2, q.x3 with
  | some a, some b, some c, some d => some { x0 := a, x1 := b, x2 := c, x3 := d }
  | _, _, _, _ => none

/-- A 4-by-4 grid, four rows of four columns (R20): the shape of the state matrix. -/
@[ext] structure Grid (α : Type) where
  rows : Quad (Quad α)
deriving DecidableEq, Repr

/-- The entry in row `r`, column `c`. -/
def Grid.cell {α : Type} (g : Grid α) (r c : Fin 4) : α := (g.rows.get r).get c

/-- The grid with `f r c` in row `r`, column `c`. -/
def Grid.ofFn {α : Type} (f : Fin 4 → Fin 4 → α) : Grid α :=
  { rows := Quad.ofFn fun r => Quad.ofFn fun c => f r c }

/-- `f` on each of the sixteen entries. -/
def Grid.map {α β : Type} (f : α → β) (g : Grid α) : Grid β :=
  { rows := g.rows.map (Quad.map f) }

/-- All sixteen values, if each entry holds one. -/
def Grid.all? {α : Type} (g : Grid (Option α)) : Option (Grid α) :=
  ((g.rows.map Quad.all?).all?).map fun rs => { rows := rs }

/-- The grid in which no entry holds a value (R30). -/
def Grid.empty {α : Type} : Grid (Option α) := Grid.ofFn fun _ _ => none

/-- Sixteen values in linear order (a block), kept as four groups of four: number `i` is place `i mod 4` of group `i / 4`. -/
@[ext] structure Seq16 (α : Type) where
  groups : Quad (Quad α)
deriving DecidableEq, Repr

/-- Value number `i` of the sixteen. -/
def Seq16.get {α : Type} (b : Seq16 α) (i : Fin 16) : α :=
  (b.groups.get ⟨i.val / 4, by omega⟩).get ⟨i.val % 4, by omega⟩

/-- The sixteen values `f 0` to `f 15`. -/
def Seq16.ofFn {α : Type} (f : Fin 16 → α) : Seq16 α :=
  { groups := Quad.ofFn fun q => Quad.ofFn fun p => f ⟨4 * q.val + p.val, by omega⟩ }

/-- `f` on each of the sixteen. -/
def Seq16.map {α β : Type} (f : α → β) (b : Seq16 α) : Seq16 β :=
  { groups := b.groups.map (Quad.map f) }

/-- All sixteen values, if each place holds one. -/
def Seq16.all? {α : Type} (b : Seq16 (Option α)) : Option (Seq16 α) :=
  ((b.groups.map Quad.all?).all?).map fun gs => { groups := gs }

/-- The sixteen places of which none holds a value (R30). -/
def Seq16.empty {α : Type} : Seq16 (Option α) := Seq16.ofFn fun _ => none

/-- The sixteen values as a list, number 0 first. -/
def Seq16.toList {α : Type} (b : Seq16 α) : List α :=
  b.groups.x0.toList ++ b.groups.x1.toList ++ b.groups.x2.toList ++ b.groups.x3.toList

/-- All the values of a list of places, if each place holds one. -/
def allSome {α : Type} : List (Option α) → Option (List α)
  | [] => some []
  | none :: _ => none
  | some a :: rest => (allSome rest).map fun as => a :: as

end Sys2Proof
end

