-- ==== Sys2Proof/Config.lean ====
section
/-! DEFINITION. What is fixed when the core is built (spec R6 to R10, R28, R231): the variant and the sizes that follow from
it, and the substitution table. The hardware's own table is nowhere in the spec (R9, U1): it is an opaque constant of which
nothing is known but that it is a bijection. The level on block_out while done = 0 is an opaque constant too (U6). -/

namespace Sys2Proof

/-- The key-size variant, fixed when the core is constructed (R7). -/
inductive Variant where
  | aes128
  | aes192
  | aes256
deriving DecidableEq, Repr

/-- `Nb`, the number of columns of the state: always 4 (R6). -/
def nb : Nat := 4

/-- `Nk`, the key length in words (R7). -/
def Variant.nk : Variant → Nat
  | .aes128 => 4
  | .aes192 => 6
  | .aes256 => 8

/-- `Nr`, the number of rounds (R7; the pairing with the key length is the spec's D17). -/
def Variant.nr : Variant → Nat
  | .aes128 => 10
  | .aes192 => 12
  | .aes256 => 14

/-- `KEYBYTES = 4*Nk` (R7). -/
def Variant.keyBytes (v : Variant) : Nat := 4 * v.nk

/-- `NWORDS = Nb*(Nr+1)`, the number of key-schedule words (R8). -/
def Variant.nwords (v : Variant) : Nat := nb * (v.nr + 1)

/-- `UPLEN = 4*Nr + 3`, the number of micro-operations of either command's program (R8). -/
def Variant.uplen (v : Variant) : Nat := 4 * v.nr + 3

/-- What makes a table of bytes a legal `SBOX`: 256 bytes, no two equal, that is, a bijection on the 256 byte values
(`SBOX_bijective`, R9, R102). -/
abbrev LegalTable (bytes : List Byte) : Prop := bytes.length = 256 ∧ bytes.Nodup

/-- A legal value of the parameter `SBOX` (R9): entry number `b` is `SBOX[b]` (the flat form of R44). A table that is no bijection
cannot be written as one: U1, "refuse to construct the core". -/
structure SubstTable where
  bytes : List Byte
  legal : LegalTable bytes
deriving DecidableEq, Repr

/-- The two construction parameters of a core (R7, R9). -/
structure Params where
  variant : Variant
  sbox : SubstTable
deriving DecidableEq, Repr

/-- The table of a permutation of the bytes: entry `n` is the image of `n`. -/
def SubstTable.ofPerm (f : Equiv.Perm Byte) : SubstTable where
  bytes := (List.range 256).map fun n => f (BitVec.ofNat 8 n)
  legal := by
    refine ⟨by simp, List.Nodup.map_on ?_ List.nodup_range⟩
    intro a ha b hb h
    have h2 : (BitVec.ofNat 8 a).toNat = (BitVec.ofNat 8 b).toNat := by rw [f.injective h]
    simp only [List.mem_range] at ha hb
    simpa [BitVec.toNat_ofNat, Nat.mod_eq_of_lt ha, Nat.mod_eq_of_lt hb] using h2

/-- The hardware's own substitution, which the source does not list (R9, N2): a permutation of the bytes, nothing else known.
A free value, log 2. -/
opaque Config.sboxPerm : Equiv.Perm Byte

/-- The hardware's own table (R9). -/
def Config.sbox : SubstTable := SubstTable.ofPerm Config.sboxPerm

/-- DESIGN CHOICE (log 1): the variant of the core that `State.reset` is. The spec makes it an argument (R7); statements are
about every variant, none rests on this one. -/
def Config.variant : Variant := .aes128

/-- The parameters of the core that `State.reset` is (log 1, log 2). -/
def Config.params : Params := { variant := Config.variant, sbox := Config.sbox }

/-- The level on `block_out` while `done = 0`: any value, one draw for each value of the counter `State.draws` (U6). A free value,
log 7. -/
opaque Config.freeBlockOut : Nat → BitVec 128

end Sys2Proof
end

