-- ==== Sys2Proof/Syntax.lean ====
section
/-! DEFINITION. The instructions (one constructor for each of the 25 rows of the opcode table, spec R70) and the words they are
written in, one kind of word for each of the three formats of R60. -/

namespace Sys2Proof

/-- The operations of the opcode table, in the table's order. The operands of a command are the fields of the request on the ports
(R61), those of a function unit are on its operand wires (R65): neither is in the word. -/
inductive Instr where
  | encode
  | decode
  | loadblock
  | keyexpand
  | addroundkey (rnd : BitVec 4)
  | subbytes
  | shiftrows
  | mixcolumns
  | invsubbytes
  | invshiftrows
  | invmixcolumns
  | storeblock
  | xtime
  | gfmult
  | mul02
  | mul03
  | mul09
  | mul0b
  | mul0d
  | mul0e
  | rcon
  | subbyte
  | invsubbyte
  | subword
  | rotword
deriving DecidableEq, Repr

/-- A word of one of the three formats, each in a space of its own (R60). -/
inductive EncWord where
  | cmd (c : BitVec 1)
  | uop (u : BitVec 8)
  | func (f : BitVec 4)
deriving DecidableEq, Repr

/-- Why a word names no operation. -/
inductive DecodeReject where
  /-- A UOP word whose opcode is 0xA to 0xF (R66 a). -/
  | reservedOpcode (u : BitVec 8)
  /-- A UOP word with a non-zero operand on an opcode that takes none (R66 b). -/
  | operandNotZero (u : BitVec 8)
  /-- ADDROUNDKEY with `rnd > Nr` (R66 c). -/
  | roundAboveNr (u : BitVec 8)
  /-- A FUNC label 0xD, 0xE or 0xF (R67). -/
  | reservedFunc (f : BitVec 4)
deriving DecidableEq, Repr

end Sys2Proof
end

