-- ==== Sys2Proof/Machine/State.lean ====
section
/-! DEFINITION. The state of the core (spec R20 to R33), the levels on its input ports (R32), the reasons a step can stop, and
the state after reset (R230). A register the spec lets hold `none` (R30) is an Option; `none` is the spec's own value of it. -/

namespace Sys2Proof.Machine

/-- `MODE`, the sequencer mode (R24): all four codes are used. -/
inductive Mode where
  | idle
  | run
  | done
  | fault
deriving DecidableEq, Repr

/-- The two errors (R200). `ERR` holds one of them, or no error (R26); there is no third (U7). -/
inductive LengthError where
  | invalidKeyLength
  | invalidBlockLength
deriving DecidableEq, Repr

/-- The register files that can hold none or be indexed (R20 to R23). -/
inductive RegName where
  | st
  | w
  | rqCmd
  | rqKey
  | rqBlock
  | out
deriving DecidableEq, Repr

/-- The levels on the input ports (R32). -/
structure Pins where
  rst : Bool
  req : Bool
  cmd : BitVec 1
  keyLen : BitVec 8
  keyIn : BitVec 256
  blockLen : BitVec 8
  blockIn : BitVec 128
deriving DecidableEq, Repr

/-- What a function unit puts on its result wire: a byte or a word (R65). -/
inductive UnitResult where
  | byte (b : Byte)
  | word (w : Word)
deriving DecidableEq, Repr

/-- DESIGN CHOICE (log 5): the wires of the function units. The units read and write no register (R65), so the model gives them
operand wires (`a`, `b` the bytes, `w` the word, `i` the natural number of RCON) and one result wire. -/
structure UnitWires where
  a : Byte
  b : Byte
  w : Word
  i : Nat
  result : Option UnitResult
deriving DecidableEq, Repr

/-- The state of one core. `params` are the construction parameters, no registers (log 1); `st` to `err` are the registers of R31;
`pins` and `script` are the host's levels now and in the steps to come (log 4); `unit`, `bench` and `draws` are the
model's own (log 5, log 6, log 7). -/
structure State where
  params : Params
  st : Grid (Option Byte)
  w : List (Option Word)
  rqCmd : Option (BitVec 1)
  rqKey : List (Option Byte)
  rqBlock : Seq16 (Option Byte)
  out : Seq16 (Option Byte)
  mode : Mode
  upc : BitVec 6
  err : Option LengthError
  pins : Pins
  script : List Pins
  unit : UnitWires
  bench : Option EncWord
  draws : Nat
deriving DecidableEq, Repr

/-- The model's own stops. No state that a run of the core reaches raises one (R211); each is safe: nothing is claimed of what
hardware would do. -/
inductive Fault where
  /-- A read of a register that holds none (R30, R211 b, U5). Raised by every micro-operation that reads one, by the
  sequencer's fetch, and by the port `block_out` while `done = 1`. Safe. -/
  | readNone (r : RegName)
  /-- An index outside its space (R40): a register file that has not the number of registers of the core's variant. Raised by
  KEYEXPAND and ADDROUNDKEY. Safe. -/
  | indexOutside (r : RegName)
  /-- `MODE = RUN` with `UPC` above `UPLEN - 1`: there is no micro-operation to perform (log 11). Raised by the sequencer's
  fetch. Safe. -/
  | noMicroOp
deriving DecidableEq, Repr

/-- Words and operands that have no meaning. -/
inductive Refusal where
  /-- An instruction whose meaning is not written. No arm answers with it. Safe. -/
  | notModelled (mnemonic : String)
  /-- A reserved word that reached a decoder (R66, R67, R211 a); raised by the step and by ADDROUNDKEY with `rnd > Nr`. Safe. -/
  | reservedWord (why : DecodeReject)
  /-- RCON of 0, outside its domain (R90, R211 c, U4). Raised by RCON. Safe. -/
  | rconZero
  /-- A legal CMD or UOP word on the model's bench: the host cannot issue a micro-operation, and a command comes through the ports
  (R191, log 6). Raised by the step. Safe. -/
  | notIssuable
deriving DecidableEq, Repr

/-- DESIGN CHOICE (log 4): the levels on the input ports in `State.reset`, all low. -/
def Pins.low : Pins :=
  { rst := false, req := false, cmd := 0, keyLen := 0, keyIn := 0, blockLen := 0, blockIn := 0 }

/-- DESIGN CHOICE (log 5): the function units' wires in `State.reset`: zeros, the least legal operand of RCON, no result. -/
def UnitWires.start : UnitWires := { a := 0, b := 0, w := 0, i := 1, result := none }

/-- A core built with the given parameters, right after reset (R230, R31): IDLE, UPC 0, no error, every data register none. -/
def State.resetOf (p : Params) : State where
  params := p
  st := Grid.empty
  w := List.replicate p.variant.nwords none
  rqCmd := none
  rqKey := List.replicate p.variant.keyBytes none
  rqBlock := Seq16.empty
  out := Seq16.empty
  mode := .idle
  upc := 0
  err := none
  pins := Pins.low
  script := []
  unit := UnitWires.start
  bench := none
  draws := 0

/-- The machine right after reset. -/
def State.reset : State := State.resetOf Config.params

end Sys2Proof.Machine
end

