-- ==== Sys2Proof/Machine/Operands.lean ====
section
/-! DEFINITION. Operand forms: the bytes of a word (spec R13), the packing of byte sequences on the ports (R45), the index of a table (R44),
and the reads of the register files (R15, R40), each of which faults on a register that holds none (R30) and on an index
outside its space. -/

namespace Sys2Proof.Machine

/-- `byte_r(w)`, byte 0 the most significant (R13). -/
def wordByte (w : Word) (r : Fin 4) : Byte := w.extractLsb' (24 - 8 * r.val) 8

/-- `word(b0, b1, b2, b3)`, byte 0 the most significant (R13). -/
def wordOf (b0 b1 b2 b3 : Byte) : Word := b0 ++ b1 ++ b2 ++ b3

/-- Byte `i` of `key_in`: bits `[255-8*i : 248-8*i]` (R45). -/
def keyPortByte (x : BitVec 256) (i : Nat) : Byte := x.extractLsb' (248 - 8 * i) 8

/-- The sixteen bytes of a block port: byte `i` is bits `[127-8*i : 120-8*i]` (R45). -/
def unpackBlock (x : BitVec 128) : Seq16 Byte := Seq16.ofFn fun i => x.extractLsb' (120 - 8 * i.val) 8

/-- The level of a block port that carries sixteen bytes: byte 0 in the top bits (R45). -/
def packBlock (b : Seq16 Byte) : BitVec 128 :=
  b.toList.foldl (fun acc x => (acc <<< 8) ||| x.setWidth 128) 0

/-- The index of a substitution table: `16*b[7:4] + b[3:0]`, row the high nibble, column the low (R44). -/
def tableIndex (b : Byte) : Nat := 16 * (b.extractLsb' 4 4).toNat + (b.extractLsb' 0 4).toNat

/-- The answer of a read: the value read, or the fault of reading a register that holds none (R30). -/
def readAll {α β : Type} (r : RegName) (all : α → Option β) (regs : α) : Except Fault β :=
  match all regs with
  | some v => .ok v
  | none => .error (.readNone r)

/-- All sixteen bytes of `ST` (R20). -/
def State.readSt (s : State) : Except Fault (Grid Byte) := readAll .st Grid.all? s.st

/-- All sixteen bytes of `RQ_BLOCK` (R22). -/
def State.readRqBlock (s : State) : Except Fault (Seq16 Byte) := readAll .rqBlock Seq16.all? s.rqBlock

/-- All bytes of `RQ_KEY`, of which there are exactly `KEYBYTES` (R22, R120). -/
def State.readRqKey (s : State) : Except Fault (List Byte) :=
  if s.rqKey.length = s.params.variant.keyBytes then readAll .rqKey allSome s.rqKey
  else .error (.indexOutside .rqKey)

/-- All sixteen bytes of `OUT` (R23). -/
def State.readOut (s : State) : Except Fault (Seq16 Byte) := readAll .out Seq16.all? s.out

/-- `RQ_CMD` (R22). -/
def State.readRqCmd (s : State) : Except Fault (BitVec 1) := readAll .rqCmd id s.rqCmd

/-- `W[i]` (R21). -/
def State.readW (s : State) (i : Nat) : Except Fault Word :=
  match s.w[i]? with
  | none => .error (.indexOutside .w)
  | some none => .error (.readNone .w)
  | some (some x) => .ok x

/-- The four words `W[4*rnd]` to `W[4*rnd+3]` of one round key (R140, R18). -/
def State.readRoundKey (s : State) (rnd : Nat) : Except Fault (Quad Word) :=
  match s.readW (nb * rnd), s.readW (nb * rnd + 1), s.readW (nb * rnd + 2), s.readW (nb * rnd + 3) with
  | .ok k0, .ok k1, .ok k2, .ok k3 => .ok { x0 := k0, x1 := k1, x2 := k2, x3 := k3 }
  | .error f, _, _, _ => .error f
  | _, .error f, _, _ => .error f
  | _, _, .error f, _ => .error f
  | _, _, _, .error f => .error f

/-- What a meaning does with an operand that it reads: stop with the read's fault, or go on with the value. -/
def reading {α : Type} (r : Except Fault α) (k : α → Host.Outcome State Fault Refusal) :
    Host.Outcome State Fault Refusal :=
  match r with
  | .ok a => k a
  | .error f => .fault f

end Sys2Proof.Machine
end

