-- ==== Sys2Proof/Machine/Flags.lean ====
section
/-! DEFINITION. The status outputs, functions of MODE and ERR (spec R24, R26, R27), and the level on block_out (R23, R32, U6). There are no
condition codes and no arithmetic flags: no operation sets one (R27, R82). -/

namespace Sys2Proof.Machine

/-- The 2-bit code of `MODE` (R24). -/
def Mode.code : Mode → BitVec 2
  | .idle => 0
  | .run => 1
  | .done => 2
  | .fault => 3

/-- The 2-bit code of `ERR`: 0 no error, 1 InvalidKeyLength, 2 InvalidBlockLength (R26, R200). -/
def errCode : Option LengthError → BitVec 2
  | none => 0
  | some .invalidKeyLength => 1
  | some .invalidBlockLength => 2

/-- What a code of `ERR` stands for; code 3 is reserved and stands for nothing (R26, U7). -/
def errOfCode (c : BitVec 2) : Option (Option LengthError) :=
  match c.toNat with
  | 0 => some none
  | 1 => some (some .invalidKeyLength)
  | 2 => some (some .invalidBlockLength)
  | _ => none

/-- The port `ready`: 1 in IDLE, DONE and FAULT (R27). -/
def State.ready (s : State) : Bool :=
  match s.mode with
  | .idle | .done | .fault => true
  | .run => false

/-- The port `done`: 1 in DONE (R27). -/
def State.done (s : State) : Bool :=
  match s.mode with
  | .done => true
  | .idle | .run | .fault => false

/-- The port `err` (R26, R27). -/
def State.errPort (s : State) : BitVec 2 := errCode s.err

/-- The port `block_out`. While `done = 1` it is a read of `OUT` (R23, R31, R32, R187), which faults where `OUT` holds none (R30, R211 b, U5). While
`done = 0` the level is a free value, whatever `OUT` holds (U6, log 7). -/
def State.blockOut (s : State) : Except Fault (BitVec 128) :=
  match s.done with
  | true => s.readOut.map packBlock
  | false => .ok (Config.freeBlockOut s.draws)

end Sys2Proof.Machine
end

