-- ==== Sys2Proof/Machine/Ops.lean ====
section
/-! DEFINITION. The named writes of the registers, and the shared operations: the length check of a request (spec R200 to R203), taking an
error (R204), latching a request and the accept step (R185), the advance and the completion (R186, R187), the reset (R230),
and what the world outside does between two steps (log 4). -/

namespace Sys2Proof.Machine

/-- `ST <- m`: all sixteen bytes at once (R15, R51). -/
def State.writeSt (s : State) (m : Grid Byte) : State := { s with st := m.map some }

/-- Every word of `W` is written (R21, R120). -/
def State.writeW (s : State) (ws : List Word) : State := { s with w := ws.map some }

/-- All sixteen bytes of `OUT` at once (R23). -/
def State.writeOut (s : State) (b : Seq16 Byte) : State := { s with out := b.map some }

/-- The result wire of the function units (log 5). -/
def State.writeResult (s : State) (r : UnitResult) : State := { s with unit := { s.unit with result := some r } }

/-- The error of a request with these lengths, the key's checked first (R200 to R203). -/
def lengthError (v : Variant) (keyLen blockLen : Nat) : Option LengthError :=
  if keyLen ≠ v.keyBytes then some .invalidKeyLength
  else if blockLen ≠ 16 then some .invalidBlockLength
  else none

/-- Taking an error, the one operation for both (R204): `ERR` the error, `MODE` FAULT, `UPC` 0, `OUT` none, and nothing else. There is no
return operation (R205): FAULT is left by the next accept step (`State.accept`) or by reset (`State.resetRegs`). -/
def State.raise (s : State) (e : LengthError) : State :=
  { s with out := Seq16.empty, err := some e, mode := .fault, upc := 0 }

/-- The bytes the request presents: `key[0 .. 4*Nk-1]` on `key_in` (R45, R62, R185). -/
def State.requestKey (s : State) : List Byte :=
  (List.range s.params.variant.keyBytes).map (keyPortByte s.pins.keyIn)

/-- Taking a request that passed the checks (R185): `RQ` latched together, `OUT` none, no error, `UPC` 0, RUN. -/
def State.startRun (s : State) (cmd : BitVec 1) : State :=
  { s with
    out := Seq16.empty
    rqCmd := some cmd
    rqKey := s.requestKey.map some
    rqBlock := (unpackBlock s.pins.blockIn).map some
    err := none
    upc := 0
    mode := .run }

/-- The accept step for the command `cmd`, of the request that the ports carry (R185). It is enabled while `ready = 1`; while an operation
runs the request is not taken and has no effect (R235). -/
def State.accept (s : State) (cmd : BitVec 1) : State :=
  if s.ready then
    match lengthError s.params.variant s.pins.keyLen.toNat s.pins.blockLen.toNat with
    | some e => s.raise e
    | none => s.startRun cmd
  else s

/-- `ST`, `W` and `RQ` discarded (R30): every one of their registers holds none. -/
def State.discard (s : State) : State :=
  { s with
    st := Grid.empty
    w := List.replicate s.params.variant.nwords none
    rqCmd := none
    rqKey := List.replicate s.params.variant.keyBytes none
    rqBlock := Seq16.empty }

/-- Completion (R187): DONE, `UPC` 0, `ST`, `W` and `RQ` none; `OUT` keeps what STOREBLOCK wrote. -/
def State.complete (s : State) : State := { s.discard with mode := .done, upc := 0 }

/-- What follows a micro-operation in the same step (R186): the next index, or the completion after the last. -/
def State.advance (s : State) : State :=
  if s.upc.toNat < s.params.variant.uplen - 1 then { s with upc := s.upc + 1 } else s.complete

/-- The reset step's effect on the registers (R230): IDLE, `UPC` 0, no error, every data register none. -/
def State.resetRegs (s : State) : State :=
  { s.discard with out := Seq16.empty, mode := .idle, upc := 0, err := none }

/-- DESIGN CHOICE (log 4): what happens outside the core as a step ends. The host drives the next levels of its script, or holds the
present ones where the script is at its end; the bench is empty again; the draw counter moves on. No register changes. -/
def State.tick (s : State) : State :=
  { s with
    pins := s.script.headD s.pins
    script := s.script.tail
    bench := none
    draws := s.draws + 1 }

/-- `f` on the next state, a stop as it is. -/
def onNext (f : State → State) (o : Host.Outcome State Fault Refusal) : Host.Outcome State Fault Refusal :=
  match o with
  | .next s => .next (f s)
  | .fault r => .fault r
  | .refused r => .refused r

end Sys2Proof.Machine
end

