-- ==== Sys2Proof/Machine/BlockCodec.lean ====
section
/-! DEFINITION. The two conversions LOADBLOCK and STOREBLOCK (spec R180, R181) and the two commands ENCODE and DECODE, whose own step is the
accept step (R182, R183, R185); the micro-program they start is `program` (R184). -/

namespace Sys2Proof.Machine

/-- LOADBLOCK on a block (R180, R41): `ST[r][c] = block[r + 4*c]`. -/
def loadBlock (b : Seq16 Byte) : Grid Byte := Grid.ofFn fun r c => b.get ⟨r.val + 4 * c.val, by omega⟩

/-- STOREBLOCK on a matrix (R181, R41): `OUT[r + 4*c] = ST[r][c]`. -/
def storeBlock (m : Grid Byte) : Seq16 Byte :=
  Seq16.ofFn fun i => m.cell ⟨i.val % 4, by omega⟩ ⟨i.val / 4, by omega⟩

/-- LOADBLOCK (R180). -/
def execLoadblock (s : State) : Host.Outcome State Fault Refusal :=
  reading s.readRqBlock fun b => .next (s.writeSt (loadBlock b))

/-- STOREBLOCK (R181). -/
def execStoreblock (s : State) : Host.Outcome State Fault Refusal :=
  reading s.readSt fun m => .next (s.writeOut (storeBlock m))

/-- ENCODE (R182): the accept step with command 0. -/
def execEncode (s : State) : Host.Outcome State Fault Refusal := .next (s.accept 0)

/-- DECODE (R183): the accept step with command 1. -/
def execDecode (s : State) : Host.Outcome State Fault Refusal := .next (s.accept 1)

end Sys2Proof.Machine
end

