-- ==== Sys2Proof/Machine/GfArith.lean ====
section
/-! DEFINITION. GF(2^8) arithmetic: XTIME, GFMULT, the six constant multipliers, RCON (spec file 40, R80 to R92), each as a function and
as the meaning of its row of the opcode table: the function of the operand wires on the result wire, no register touched (log 5). -/

namespace Sys2Proof.Machine

/-- XTIME (R80): the nine-bit shift `t`, masked to eight bits, with `0x1B` where `t[8]` is set. -/
def xtime (v : Byte) : Byte :=
  let t : BitVec 9 := v.setWidth 9 <<< 1
  let r : Byte := t.setWidth 8
  if t.getLsbD 8 then r ^^^ 0x1B else r

/-- The loop of GFMULT (R81), `n` iterations to go. -/
def gfLoop : Nat → Byte → Byte → Byte → Byte
  | 0, p, _, _ => p
  | n + 1, p, a, b => gfLoop n (if b.getLsbD 0 then p ^^^ a else p) (xtime a) (b >>> 1)

/-- GFMULT (R81): always eight iterations (D24). -/
def gfMult (a b : Byte) : Byte := gfLoop 8 0x00 a b

/-- MUL02 (R84). -/
def mul02 (a : Byte) : Byte := gfMult 0x02 a

/-- MUL03 (R85). -/
def mul03 (a : Byte) : Byte := gfMult 0x03 a

/-- MUL09 (R86). -/
def mul09 (a : Byte) : Byte := gfMult 0x09 a

/-- MUL0B (R87). -/
def mul0b (a : Byte) : Byte := gfMult 0x0B a

/-- MUL0D (R88). -/
def mul0d (a : Byte) : Byte := gfMult 0x0D a

/-- MUL0E (R89). -/
def mul0e (a : Byte) : Byte := gfMult 0x0E a

/-- The field element x^n: XTIME applied `n` times to 1 (R90). -/
def xPower : Nat → Byte
  | 0 => 0x01
  | n + 1 => xtime (xPower n)

/-- RCON (R90): x^(i-1) in the top byte. Outside its domain, at 0, it gives nothing (U4): a caller shows that its index is at least 1. -/
def rcon (i : Nat) (_ : 1 ≤ i) : Word := wordOf (xPower (i - 1)) 0x00 0x00 0x00

/-- XTIME (R80). -/
def execXtime (s : State) : Host.Outcome State Fault Refusal := .next (s.writeResult (.byte (xtime s.unit.a)))

/-- GFMULT (R81). -/
def execGfmult (s : State) : Host.Outcome State Fault Refusal := .next (s.writeResult (.byte (gfMult s.unit.a s.unit.b)))

/-- MUL02 (R84). -/
def execMul02 (s : State) : Host.Outcome State Fault Refusal := .next (s.writeResult (.byte (mul02 s.unit.a)))

/-- MUL03 (R85). -/
def execMul03 (s : State) : Host.Outcome State Fault Refusal := .next (s.writeResult (.byte (mul03 s.unit.a)))

/-- MUL09 (R86). -/
def execMul09 (s : State) : Host.Outcome State Fault Refusal := .next (s.writeResult (.byte (mul09 s.unit.a)))

/-- MUL0B (R87). -/
def execMul0b (s : State) : Host.Outcome State Fault Refusal := .next (s.writeResult (.byte (mul0b s.unit.a)))

/-- MUL0D (R88). -/
def execMul0d (s : State) : Host.Outcome State Fault Refusal := .next (s.writeResult (.byte (mul0d s.unit.a)))

/-- MUL0E (R89). -/
def execMul0e (s : State) : Host.Outcome State Fault Refusal := .next (s.writeResult (.byte (mul0e s.unit.a)))

/-- RCON (R90): refused at 0, outside its domain (R211 c). -/
def execRcon (s : State) : Host.Outcome State Fault Refusal :=
  if h : 1 ≤ s.unit.i then .next (s.writeResult (.word (rcon s.unit.i h))) else .refused .rconZero

end Sys2Proof.Machine
end

