-- ==== Sys2Proof/Machine/Substitution.lean ====
section
/-! DEFINITION. Substitution and the word helpers of the key schedule: SUBBYTE, INVSUBBYTE, SUBWORD, ROTWORD (spec file 41, R100 to R105), each as
a function of the table and as the meaning of its row of the opcode table (log 5). -/

namespace Sys2Proof.Machine

/-- SUBBYTE (R100): the entry of `SBOX` at row high nibble, column low nibble. -/
def subByte (t : SubstTable) (b : Byte) : Byte := t.bytes.getD (tableIndex b) 0

/-- `INV_SBOX`, determined by `SBOX` (R102): its entry at `c` is the `b` with `SBOX[b] = c`. -/
def invTable (t : SubstTable) (c : Byte) : Byte := BitVec.ofNat 8 (t.bytes.idxOf c)

/-- INVSUBBYTE (R101): the entry of `INV_SBOX` at row high nibble, column low nibble. -/
def invSubByte (t : SubstTable) (b : Byte) : Byte := invTable t (BitVec.ofNat 8 (tableIndex b))

/-- SUBWORD (R104): SUBBYTE on each of the four bytes, places kept. -/
def subWord (t : SubstTable) (w : Word) : Word :=
  wordOf (subByte t (wordByte w 0)) (subByte t (wordByte w 1)) (subByte t (wordByte w 2)) (subByte t (wordByte w 3))

/-- ROTWORD (R105): `((w << 8) | (w >> 24)) & 0xFFFFFFFF`. -/
def rotWord (w : Word) : Word := (w <<< 8) ||| (w >>> 24)

/-- SUBBYTE (R100). -/
def execSubbyte (s : State) : Host.Outcome State Fault Refusal :=
  .next (s.writeResult (.byte (subByte s.params.sbox s.unit.a)))

/-- INVSUBBYTE (R101). -/
def execInvsubbyte (s : State) : Host.Outcome State Fault Refusal :=
  .next (s.writeResult (.byte (invSubByte s.params.sbox s.unit.a)))

/-- SUBWORD (R104). -/
def execSubword (s : State) : Host.Outcome State Fault Refusal :=
  .next (s.writeResult (.word (subWord s.params.sbox s.unit.w)))

/-- ROTWORD (R105). -/
def execRotword (s : State) : Host.Outcome State Fault Refusal := .next (s.writeResult (.word (rotWord s.unit.w)))

end Sys2Proof.Machine
end

