-- ==== Sys2Proof/Machine/KeySchedule.lean ====
section
/-! DEFINITION. The key schedule expander, KEYEXPAND (spec file 42, R120 to R127). -/

namespace Sys2Proof.Machine

/-- Phase 1 (R121, R42): word `i` is the `i`-th group of four key bytes, the first the most significant. -/
def loadKey (v : Variant) (key : List Byte) : List Word :=
  (List.range v.nk).map fun i =>
    wordOf (key.getD (4 * i) 0) (key.getD (4 * i + 1) 0) (key.getD (4 * i + 2) 0) (key.getD (4 * i + 3) 0)

/-- A key has at least one word (R8). -/
theorem nk_pos (v : Variant) : 1 ≤ v.nk := by
  cases v <;> decide

/-- The three cases at word index `i >= Nk`, `temp = W[i-1]` (R123), tested in this order. RCON is asked for `i / Nk >= 1` only (R127). -/
def expandTemp (v : Variant) (t : SubstTable) (i : Nat) (hi : v.nk ≤ i) (temp : Word) : Word :=
  if i % v.nk = 0 then subWord t (rotWord temp) ^^^ rcon (i / v.nk) (Nat.div_pos hi (nk_pos v))
  else if v.nk = 8 ∧ i % v.nk = 4 then subWord t temp
  else temp

/-- The next word after the words `ws` (R122): `W[i] = W[i-Nk] ^ temp` at `i = ws.length`. Both words read lie in `ws`, because `i >= Nk`. -/
def expandWord (v : Variant) (t : SubstTable) (ws : List Word) (h : v.nk ≤ ws.length) : Word :=
  have := nk_pos v
  ws[ws.length - v.nk] ^^^ expandTemp v t ws.length h ws[ws.length - 1]

/-- Phase 2 (R122), `n` words to go, in ascending order. -/
def expandFrom (v : Variant) (t : SubstTable) : Nat → (ws : List Word) → v.nk ≤ ws.length → List Word
  | 0, ws, _ => ws
  | n + 1, ws, h => expandFrom v t n (ws ++ [expandWord v t ws h]) (by rw [List.length_append]; omega)

/-- Phase 1 loads `Nk` words (R121). -/
@[simp] theorem length_loadKey (v : Variant) (key : List Byte) : (loadKey v key).length = v.nk := by
  rw [loadKey, List.length_map, List.length_range]

/-- The key schedule of a key of `4*Nk` bytes: `NWORDS` words (R120). -/
def keyExpand (v : Variant) (t : SubstTable) (key : List Byte) : List Word :=
  expandFrom v t (v.nwords - v.nk) (loadKey v key) (Nat.le_of_eq (length_loadKey v key).symm)

/-- KEYEXPAND (R120): every word of `W` from `RQ_KEY`. -/
def execKeyexpand (s : State) : Host.Outcome State Fault Refusal :=
  reading s.readRqKey fun key => .next (s.writeW (keyExpand s.params.variant s.params.sbox key))

end Sys2Proof.Machine
end

