-- ==== Sys2Proof/Machine/RoundForward.lean ====
section
/-! DEFINITION. The forward round transformations ADDROUNDKEY, SUBBYTES, SHIFTROWS, MIXCOLUMNS (spec file 43, R140 to R143): each a function of
the whole old matrix (R51), and the meaning that reads `ST`, applies it and writes `ST`. -/

namespace Sys2Proof.Machine

/-- ADDROUNDKEY on a matrix (R140, R43): the byte in row `r`, column `c` is XORed with byte `r` of the round key's word `c`. -/
def addRoundKey (k : Quad Word) (m : Grid Byte) : Grid Byte :=
  Grid.ofFn fun r c => m.cell r c ^^^ wordByte (k.get c) r

/-- SUBBYTES on a matrix (R141). -/
def subBytes (t : SubstTable) (m : Grid Byte) : Grid Byte := Grid.ofFn fun r c => subByte t (m.cell r c)

/-- SHIFTROWS on a matrix (R142): new column `c` of row `r` is old column `(c + r) mod 4`. -/
def shiftRows (m : Grid Byte) : Grid Byte := Grid.ofFn fun r c => m.cell r (c + r)

/-- One column of MIXCOLUMNS from its four old bytes (R143). -/
def mixColumn (s0 s1 s2 s3 : Byte) : Quad Byte where
  x0 := mul02 s0 ^^^ mul03 s1 ^^^ s2 ^^^ s3
  x1 := s0 ^^^ mul02 s1 ^^^ mul03 s2 ^^^ s3
  x2 := s0 ^^^ s1 ^^^ mul02 s2 ^^^ mul03 s3
  x3 := mul03 s0 ^^^ s1 ^^^ s2 ^^^ mul02 s3

/-- MIXCOLUMNS on a matrix (R143). -/
def mixColumns (m : Grid Byte) : Grid Byte :=
  Grid.ofFn fun r c => (mixColumn (m.cell 0 c) (m.cell 1 c) (m.cell 2 c) (m.cell 3 c)).get r

/-- ADDROUNDKEY (R140). `rnd > Nr` is a reserved word, refused (R66 c, R211 a). -/
def execAddroundkey (rnd : BitVec 4) (s : State) : Host.Outcome State Fault Refusal :=
  if rnd.toNat ≤ s.params.variant.nr then
    reading s.readSt fun m => reading (s.readRoundKey rnd.toNat) fun k => .next (s.writeSt (addRoundKey k m))
  else .refused (.reservedWord (.roundAboveNr (0x2#4 ++ rnd)))

/-- SUBBYTES (R141). -/
def execSubbytes (s : State) : Host.Outcome State Fault Refusal :=
  reading s.readSt fun m => .next (s.writeSt (subBytes s.params.sbox m))

/-- SHIFTROWS (R142). -/
def execShiftrows (s : State) : Host.Outcome State Fault Refusal :=
  reading s.readSt fun m => .next (s.writeSt (shiftRows m))

/-- MIXCOLUMNS (R143). -/
def execMixcolumns (s : State) : Host.Outcome State Fault Refusal :=
  reading s.readSt fun m => .next (s.writeSt (mixColumns m))

end Sys2Proof.Machine
end

