-- ==== Sys2Proof/Machine/RoundInverse.lean ====
section
/-! DEFINITION. The inverse round transformations INVSHIFTROWS, INVSUBBYTES, INVMIXCOLUMNS (spec file 44, R160 to R162). -/

namespace Sys2Proof.Machine

/-- INVSHIFTROWS on a matrix (R160): new column `c` of row `r` is old column `(c - r) mod 4`. -/
def invShiftRows (m : Grid Byte) : Grid Byte := Grid.ofFn fun r c => m.cell r (c - r)

/-- INVSUBBYTES on a matrix (R161). -/
def invSubBytes (t : SubstTable) (m : Grid Byte) : Grid Byte := Grid.ofFn fun r c => invSubByte t (m.cell r c)

/-- One column of INVMIXCOLUMNS from its four old bytes (R162). -/
def invMixColumn (s0 s1 s2 s3 : Byte) : Quad Byte where
  x0 := mul0e s0 ^^^ mul0b s1 ^^^ mul0d s2 ^^^ mul09 s3
  x1 := mul09 s0 ^^^ mul0e s1 ^^^ mul0b s2 ^^^ mul0d s3
  x2 := mul0d s0 ^^^ mul09 s1 ^^^ mul0e s2 ^^^ mul0b s3
  x3 := mul0b s0 ^^^ mul0d s1 ^^^ mul09 s2 ^^^ mul0e s3

/-- INVMIXCOLUMNS on a matrix (R162). -/
def invMixColumns (m : Grid Byte) : Grid Byte :=
  Grid.ofFn fun r c => (invMixColumn (m.cell 0 c) (m.cell 1 c) (m.cell 2 c) (m.cell 3 c)).get r

/-- INVSUBBYTES (R161). -/
def execInvsubbytes (s : State) : Host.Outcome State Fault Refusal :=
  reading s.readSt fun m => .next (s.writeSt (invSubBytes s.params.sbox m))

/-- INVSHIFTROWS (R160). -/
def execInvshiftrows (s : State) : Host.Outcome State Fault Refusal :=
  reading s.readSt fun m => .next (s.writeSt (invShiftRows m))

/-- INVMIXCOLUMNS (R162). -/
def execInvmixcolumns (s : State) : Host.Outcome State Fault Refusal :=
  reading s.readSt fun m => .next (s.writeSt (invMixColumns m))

end Sys2Proof.Machine
end

