-- ==== Sys2Proof/Machine/Dispatch.lean ====
section
/-! DEFINITION. One arm for each row of the opcode table. -/

namespace Sys2Proof.Machine

def exec (i : Instr) (s : State) : Host.Outcome State Fault Refusal :=
  match i with
  | .encode => Sys2Proof.Machine.execEncode s
  | .decode => Sys2Proof.Machine.execDecode s
  | .loadblock => Sys2Proof.Machine.execLoadblock s
  | .keyexpand => Sys2Proof.Machine.execKeyexpand s
  | .addroundkey rnd => Sys2Proof.Machine.execAddroundkey rnd s
  | .subbytes => Sys2Proof.Machine.execSubbytes s
  | .shiftrows => Sys2Proof.Machine.execShiftrows s
  | .mixcolumns => Sys2Proof.Machine.execMixcolumns s
  | .invsubbytes => Sys2Proof.Machine.execInvsubbytes s
  | .invshiftrows => Sys2Proof.Machine.execInvshiftrows s
  | .invmixcolumns => Sys2Proof.Machine.execInvmixcolumns s
  | .storeblock => Sys2Proof.Machine.execStoreblock s
  | .xtime => Sys2Proof.Machine.execXtime s
  | .gfmult => Sys2Proof.Machine.execGfmult s
  | .mul02 => Sys2Proof.Machine.execMul02 s
  | .mul03 => Sys2Proof.Machine.execMul03 s
  | .mul09 => Sys2Proof.Machine.execMul09 s
  | .mul0b => Sys2Proof.Machine.execMul0b s
  | .mul0d => Sys2Proof.Machine.execMul0d s
  | .mul0e => Sys2Proof.Machine.execMul0e s
  | .rcon => Sys2Proof.Machine.execRcon s
  | .subbyte => Sys2Proof.Machine.execSubbyte s
  | .invsubbyte => Sys2Proof.Machine.execInvsubbyte s
  | .subword => Sys2Proof.Machine.execSubword s
  | .rotword => Sys2Proof.Machine.execRotword s

end Sys2Proof.Machine
end

