-- ==== Sys2Proof/WellFormed.lean ====
section
/-! DEFINITION. Which instructions are well-formed: the one condition is ADDROUNDKEY's, `0 <= rnd <= Nr` (spec R63). -/

namespace Sys2Proof

/-- The instruction is one that a core of this variant has a word for (R63, R66). -/
def Instr.wf (v : Variant) : Instr → Bool
  | .addroundkey rnd => decide (rnd.toNat ≤ v.nr)
  | .encode | .decode => true
  | .loadblock | .keyexpand | .subbytes | .shiftrows | .mixcolumns | .invsubbytes | .invshiftrows | .invmixcolumns
  | .storeblock => true
  | .xtime | .gfmult | .mul02 | .mul03 | .mul09 | .mul0b | .mul0d | .mul0e | .rcon | .subbyte | .invsubbyte | .subword
  | .rotword => true

end Sys2Proof
end

