-- ==== Sys2Proof/Decode.lean ====
section
/-! DEFINITION. Decoding, total on every word of the three formats and rejecting by name (spec R61, R63 to R67), the encoder written
from the same maps, and the reading of a row of the opcode table that the host asks for. -/

namespace Sys2Proof

/-- CMD, 1 bit: 0 is ENCODE, 1 is DECODE; both are legal (R61). -/
def decodeCmd (c : BitVec 1) : Instr := if c = 0 then .encode else .decode

/-- The opcodes of R64 that take no operand. -/
def plainUop (op : BitVec 4) : Option Instr :=
  match op.toNat with
  | 0x0 => some .loadblock
  | 0x1 => some .keyexpand
  | 0x3 => some .subbytes
  | 0x4 => some .shiftrows
  | 0x5 => some .mixcolumns
  | 0x6 => some .invsubbytes
  | 0x7 => some .invshiftrows
  | 0x8 => some .invmixcolumns
  | 0x9 => some .storeblock
  | _ => none

/-- UOP, 8 bits `oooorrrr` (R63, R64): `u[7:4]` is the opcode, `u[3:0]` the round operand, used by ADDROUNDKEY only and
0 elsewhere. The reserved words of R66 are rejected. -/
def decodeUop (v : Variant) (u : BitVec 8) : Except DecodeReject Instr :=
  let op := u.extractLsb' 4 4
  let rnd := u.extractLsb' 0 4
  if op = 0x2 then
    if rnd.toNat ≤ v.nr then .ok (.addroundkey rnd) else .error (.roundAboveNr u)
  else
    match plainUop op with
    | none => .error (.reservedOpcode u)
    | some i => if rnd = 0 then .ok i else .error (.operandNotZero u)

/-- FUNC, 4-bit labels (R65); 0xD to 0xF name nothing (R67). -/
def decodeFunc (f : BitVec 4) : Except DecodeReject Instr :=
  match f.toNat with
  | 0x0 => .ok .xtime
  | 0x1 => .ok .gfmult
  | 0x2 => .ok .mul02
  | 0x3 => .ok .mul03
  | 0x4 => .ok .mul09
  | 0x5 => .ok .mul0b
  | 0x6 => .ok .mul0d
  | 0x7 => .ok .mul0e
  | 0x8 => .ok .rcon
  | 0x9 => .ok .subbyte
  | 0xA => .ok .invsubbyte
  | 0xB => .ok .subword
  | 0xC => .ok .rotword
  | _ => .error (.reservedFunc f)

/-- The operation a word names on a core of variant `v`, or the reason it names none. -/
def decode (v : Variant) : EncWord → Except DecodeReject Instr
  | .cmd c => .ok (decodeCmd c)
  | .uop u => decodeUop v u
  | .func f => decodeFunc f

/-- The word of an instruction (R61, R64, R65). -/
def encode : Instr → EncWord
  | .encode => .cmd 0
  | .decode => .cmd 1
  | .loadblock => .uop 0x00
  | .keyexpand => .uop 0x10
  | .addroundkey rnd => .uop (0x2#4 ++ rnd)
  | .subbytes => .uop 0x30
  | .shiftrows => .uop 0x40
  | .mixcolumns => .uop 0x50
  | .invsubbytes => .uop 0x60
  | .invshiftrows => .uop 0x70
  | .invmixcolumns => .uop 0x80
  | .storeblock => .uop 0x90
  | .xtime => .func 0x0
  | .gfmult => .func 0x1
  | .mul02 => .func 0x2
  | .mul03 => .func 0x3
  | .mul09 => .func 0x4
  | .mul0b => .func 0x5
  | .mul0d => .func 0x6
  | .mul0e => .func 0x7
  | .rcon => .func 0x8
  | .subbyte => .func 0x9
  | .invsubbyte => .func 0xA
  | .subword => .func 0xB
  | .rotword => .func 0xC

/-- The word that a number `w` of `nbits` bits is: the width names the format, 1 bit CMD, 4 bits FUNC, 8 bits UOP, and no other width is a word (R60, R70).
So every number of 8 bits is a UOP word, the reserved ones among them (R66). -/
def tableWord (nbits w : Nat) : Option EncWord :=
  match nbits with
  | 1 => if w < 2 then some (.cmd (BitVec.ofNat 1 w)) else none
  | 4 => if w < 16 then some (.func (BitVec.ofNat 4 w)) else none
  | 8 => if w < 256 then some (.uop (BitVec.ofNat 8 w)) else none
  | _ => none

/-- The instruction the decoder reads from the number `w` of `nbits` bits, on the core that `State.reset` is (log 8). -/
def decodeTableWord (nbits w : Nat) : Option Instr :=
  match tableWord nbits w with
  | none => none
  | some x =>
    match decode Config.variant x with
    | .ok i => some i
    | .error _ => none

end Sys2Proof
end

