-- ==== Sys2Proof/Machine/Sequencer.lean ====
section
/-! DEFINITION. The sequencer: the fixed micro-program of each command (spec R184), the fetch at UPC (R186), which event a step is (reset first,
R230; then the model's bench; then a micro step in RUN, R186; else an accept step where a request is presented, R185; else
nothing), and the placing of a word where the next step fetches (log 9). -/

namespace Sys2Proof.Machine

/-- `PROGRAM(0)`, ENCODE, in UOP words (R184). -/
def encodeProgram (v : Variant) : List (BitVec 8) :=
  [0x00, 0x10, 0x20]
    ++ (List.range (v.nr - 1)).flatMap (fun j => [0x30, 0x40, 0x50, 0x20 ||| BitVec.ofNat 8 (j + 1)])
    ++ [0x30, 0x40, 0x20 ||| BitVec.ofNat 8 v.nr, 0x90]

/-- `PROGRAM(1)`, DECODE, in UOP words (R184). -/
def decodeProgram (v : Variant) : List (BitVec 8) :=
  [0x00, 0x10, 0x20 ||| BitVec.ofNat 8 v.nr]
    ++ (List.range (v.nr - 1)).flatMap (fun j => [0x70, 0x60, 0x20 ||| BitVec.ofNat 8 (v.nr - (j + 1)), 0x80])
    ++ [0x70, 0x60, 0x20, 0x90]

/-- `PROGRAM(cmd)` (R184): it depends on the command and on `Nr`, on nothing else. -/
def program (v : Variant) (cmd : BitVec 1) : List (BitVec 8) :=
  if cmd = 0 then encodeProgram v else decodeProgram v

/-- What the sequencer fetches in RUN: `PROGRAM(RQ_CMD)[UPC]` (R186). -/
def State.fetchUop (s : State) : Except Fault (BitVec 8) :=
  match s.readRqCmd with
  | .error f => .error f
  | .ok cmd =>
    match (program s.params.variant cmd)[s.upc.toNat]? with
    | some u => .ok u
    | none => .error .noMicroOp

/-- What one step of the machine is. -/
inductive Event where
  /-- The reset step (R230). -/
  | reset
  /-- No step of the core is enabled: it waits for the host. -/
  | idle
  /-- The accept step, with the command the port carries (R185). -/
  | command (i : Instr)
  /-- A micro step (R186). -/
  | micro (i : Instr)
  /-- A function unit evaluated on the model's bench (log 5). -/
  | unit (i : Instr)
  /-- A stop of the model. -/
  | fault (f : Fault)
  | refuse (r : Refusal)
deriving DecidableEq, Repr

/-- The event of a word on the model's bench: a function unit is evaluated, a reserved word is refused by name, and a legal command or
micro-operation cannot be issued here (R191, log 6). -/
def benchEvent (v : Variant) (x : EncWord) : Event :=
  match decode v x with
  | .error why => .refuse (.reservedWord why)
  | .ok i =>
    match x with
    | .func _ => .unit i
    | .cmd _ | .uop _ => .refuse .notIssuable

/-- The event of a micro step: the fetched word decoded (R186); a reserved word would be refused (R211 a). -/
def State.microEvent (s : State) : Event :=
  match s.fetchUop with
  | .error f => .fault f
  | .ok u =>
    match decodeUop s.params.variant u with
    | .ok i => .micro i
    | .error why => .refuse (.reservedWord why)

/-- Which event the next step is. -/
def State.event (s : State) : Event :=
  if s.pins.rst then .reset
  else
    match s.bench with
    | some x => benchEvent s.params.variant x
    | none =>
      match s.mode with
      | .run => s.microEvent
      | .idle | .done | .fault => if s.pins.req then .command (decodeCmd s.pins.cmd) else .idle

/-- The end of a micro step, after its micro-operation (R186, R187). -/
def State.endMicro (s : State) : State := s.advance.tick

/-- The reset step (R230). -/
def State.resetStep (s : State) : State := s.resetRegs.tick

/-- The registers a run in front of index `k` of a program holds, zero where `s` holds none: the request, `ST` from index 1 on, `W` from
index 2 on. DESIGN CHOICE (log 9): these zeros stand for an operation's own data in the host's question only. -/
def State.fillFor (s : State) (k : Nat) : State :=
  { s with
    rqKey := s.rqKey.map fun x => some (x.getD 0)
    rqBlock := s.rqBlock.map fun x => some (x.getD 0)
    st := if k = 0 then s.st else s.st.map fun x => some (x.getD 0)
    w := if k ≤ 1 then s.w else s.w.map fun x => some (x.getD 0) }

/-- `s` in RUN with `UPC` at the first place of the command's program that holds `u`. -/
def State.placeUop (s : State) (cmd : BitVec 1) (u : BitVec 8) : State :=
  let k := (program s.params.variant cmd).idxOf u
  { s.fillFor k with rqCmd := some cmd, mode := .run, upc := BitVec.ofNat 6 k }

/-- `s` with a request for the command presented on the ports, its lengths legal, while the core can take it. -/
def State.placeCmd (s : State) (c : BitVec 1) : State :=
  { s with
    mode := if s.mode = .run then .idle else s.mode
    pins := { s.pins with
              req := true
              cmd := c
              keyLen := BitVec.ofNat 8 s.params.variant.keyBytes
              blockLen := 16 } }

/-- `s` with a word where the next step fetches it (log 9): a command on the ports, a micro-operation under the micro-program counter, a
function-unit label, or a word that names nothing, on the bench. -/
def State.place (s : State) (x : EncWord) : State :=
  let s' := { s with pins := { s.pins with rst := false }, bench := none }
  match x with
  | .cmd c => s'.placeCmd c
  | .func f => { s' with bench := some (.func f) }
  | .uop u =>
    if u ∈ program s.params.variant 0 then s'.placeUop 0 u
    else if u ∈ program s.params.variant 1 then s'.placeUop 1 u
    else { s' with bench := some (.uop u) }

/-- The place of the number `w` of `nbits` bits (log 8, log 9); a number that is no word of the table is put on the bench as an
eight-bit word with the reserved opcode 0xF, which the decoder refuses. -/
def State.placeNumber (s : State) (nbits w : Nat) : State :=
  match tableWord nbits w with
  | some x => s.place x
  | none => s.place (.uop 0xFF)

end Sys2Proof.Machine
end

