-- ==== Sys2Proof/Machine/Step.lean ====
section
/-! DEFINITION. One step of the machine (spec R185, R186, R230): the event the state calls for, its instruction run by `exec`, and what
stands around it. -/

namespace Sys2Proof.Machine

/-- One step. A command ends with the world's move (`tick`), a micro step with the advance or the completion as well (`endMicro`). -/
def step (s : State) : Host.Outcome State Fault Refusal :=
  match s.event with
  | .reset => .next s.resetStep
  | .idle => .next s.tick
  | .command i => onNext State.tick (exec i s)
  | .micro i => onNext State.endMicro (exec i s)
  | .unit i => onNext State.tick (exec i s)
  | .fault f => .fault f
  | .refuse r => .refused r

/-- `s` with the number `w` of `nbits` bits where the next step fetches its instruction (log 9). -/
def State.withFetchWord (s : State) (nbits w : Nat) : State := s.placeNumber nbits w

end Sys2Proof.Machine
end

