-- ==== Sys2Proof/Machine/Transaction.lean ====
section
/-! DEFINITION. The transaction level (spec R11, R188): CIPHER, INVCIPHER and OPERATE as functions of a core's parameters, defined apart from
the stepped machine, by the sequences of R144 and R163 and not by PROGRAM. -/

namespace Sys2Proof.Machine

/-- The round key of round `rnd`: words `W[4*rnd]` to `W[4*rnd+3]` of a complete schedule (R125, R140). -/
def roundKey (ws : List Word) (rnd : Nat) : Quad Word := Quad.ofFn fun c => ws.getD (nb * rnd + c.val) 0

/-- The loop body of CIPHER (R144). -/
def cipherRound (t : SubstTable) (ws : List Word) (m : Grid Byte) (round : Nat) : Grid Byte :=
  addRoundKey (roundKey ws round) (mixColumns (shiftRows (subBytes t m)))

/-- CIPHER (R144): rounds 1 to Nr-1 ascending. -/
def cipher (v : Variant) (t : SubstTable) (ws : List Word) (m : Grid Byte) : Grid Byte :=
  let m1 := addRoundKey (roundKey ws 0) m
  let m2 := (List.range (v.nr - 1)).foldl (fun m j => cipherRound t ws m (j + 1)) m1
  addRoundKey (roundKey ws v.nr) (shiftRows (subBytes t m2))

/-- The loop body of INVCIPHER (R163, R164): ADDROUNDKEY before INVMIXCOLUMNS. -/
def invCipherRound (t : SubstTable) (ws : List Word) (m : Grid Byte) (round : Nat) : Grid Byte :=
  invMixColumns (addRoundKey (roundKey ws round) (invSubBytes t (invShiftRows m)))

/-- INVCIPHER (R163): rounds Nr-1 to 1 descending. -/
def invCipher (v : Variant) (t : SubstTable) (ws : List Word) (m : Grid Byte) : Grid Byte :=
  let m1 := addRoundKey (roundKey ws v.nr) m
  let m2 := (List.range (v.nr - 1)).foldl (fun m j => invCipherRound t ws m (v.nr - 1 - j)) m1
  addRoundKey (roundKey ws 0) (invSubBytes t (invShiftRows m2))

/-- The sixteen bytes of a block given as a byte sequence. -/
def blockOfList (block : List Byte) : Seq16 Byte := Seq16.ofFn fun i => block.getD i.val 0

/-- OPERATE (R188): a request with byte sequences of any length to a block or an error. -/
def operate (p : Params) (cmd : BitVec 1) (key block : List Byte) : Except LengthError (Seq16 Byte) :=
  match lengthError p.variant key.length block.length with
  | some e => .error e
  | none =>
    let ws := keyExpand p.variant p.sbox key
    let m := loadBlock (blockOfList block)
    .ok (storeBlock (if cmd = 0 then cipher p.variant p.sbox ws m else invCipher p.variant p.sbox ws m))

end Sys2Proof.Machine
end

