-- ==== Sys2Proof/Safety.lean ====
section
/-! DEFINITION. What statements about runs use: a host that leaves the machine alone for a while, and the invariant that rules out the states no
run reaches (spec R22 to R26, R30, R31: which registers hold a value in which mode). -/

namespace Sys2Proof.Machine

/-- `s` with `r` on the result wire of the function units (log 5) and nothing else changed. -/
def State.showing (s : State) (r : UnitResult) : State := { s with unit := { s.unit with result := some r } }

/-- `s` with the sixteen bytes of `m` in `ST` and nothing else changed. -/
def State.holding (s : State) (m : Grid Byte) : State := { s with st := m.map some }

/-- The key bytes of the request on the ports: `key_len` of them (R62). The port carries 32; what stands for the bytes above has no effect,
because a request with `key_len` above 32 is rejected before any byte is read (R204). -/
def State.requestKeyBytes (s : State) : List Byte := (List.range s.pins.keyLen.toNat).map (keyPortByte s.pins.keyIn)

/-- The block bytes of the request on the ports: `block_len` of them (R62), of which the port carries sixteen. -/
def State.requestBlockBytes (s : State) : List Byte :=
  (List.range s.pins.blockLen.toNat).map fun i => s.pins.blockIn.extractLsb' (120 - 8 * i) 8

/-- For this step and the `n` steps after it the host does not reset the core, and the model's bench is empty. Everything else it may do:
raise `req`, change the other inputs (R191). -/
def State.undisturbed (s : State) (n : Nat) : Prop :=
  s.bench = none ∧ s.pins.rst = false ∧ ∀ p ∈ s.script.take n, p.rst = false

/-- `ST`, `W` and `RQ` hold none (R30): what holds whenever no operation runs. -/
abbrev State.discarded (s : State) : Prop :=
  s.st = Grid.empty ∧ s.w = List.replicate s.params.variant.nwords none ∧ s.rqCmd = none ∧
    s.rqKey = List.replicate s.params.variant.keyBytes none ∧ s.rqBlock = Seq16.empty

/-- The request is latched (R22), of the variant's key length (R120). -/
abbrev State.latched (s : State) : Prop :=
  s.rqCmd.isSome ∧ s.rqKey.length = s.params.variant.keyBytes ∧ (allSome s.rqKey).isSome ∧ s.rqBlock.all?.isSome

/-- What `ST` and `W` hold before the micro-operation at `UPC`: `ST` nothing before LOADBLOCK at index 0 and sixteen bytes after it, `W`
nothing before KEYEXPAND at index 1 and NWORDS words after it (R29, R184). -/
abbrev State.loadedFor (s : State) : Prop :=
  s.w.length = s.params.variant.nwords ∧
    (s.upc = 0 → s.st = Grid.empty) ∧ (s.upc ≠ 0 → s.st.all?.isSome) ∧
    (s.upc.toNat ≤ 1 → s.w = List.replicate s.params.variant.nwords none) ∧ (2 ≤ s.upc.toNat → (allSome s.w).isSome)

/-- The invariant of the machine. In RUN: `UPC` in 0..UPLEN-1 (R25), the request latched, `ST` and `W` as far as the program has come, `OUT`
none. Outside RUN: `UPC` 0, `ST`, `W`, `RQ` none (C14), `OUT` sixteen bytes in DONE and none elsewhere (R23, R24). `ERR` holds an error in
FAULT and nowhere else (R26). -/
def State.Inv (s : State) : Prop :=
  (s.mode = .run → s.upc.toNat < s.params.variant.uplen ∧ s.latched ∧ s.loadedFor) ∧
    (s.mode ≠ .run → s.upc = 0 ∧ s.discarded) ∧
    (s.mode = .done → s.out.all?.isSome) ∧ (s.mode ≠ .done → s.out = Seq16.empty) ∧
    (s.err.isSome ↔ s.mode = .fault)

end Sys2Proof.Machine
end

