-- ==== Sys2Proof/Certificates/Slice0/Obligations.lean ====
section
/-! DEFINITION. The statements about the model, for the provers. Each docstring names the rule of the spec it formalises, or says that it rests
on a choice of the model. Where a conclusion is `exec i s = .next { s with … }`, every register, port, wire and index of `s` that is
not named in the braces is unchanged: that is the instruction's frame. -/

open Sys2Proof Sys2Proof.Machine

/-! ### The function units (spec files 40 and 41). The result wire is the model's own (log 5); each unit touches nothing else. -/

/-- R80: XTIME, label 0x0, shifts left and XORs 0x1B where the bit shifted out (bit 7 of the operand) was set. -/
def Obligations.XtimeDoublesItsOperand : Prop :=
  encode .xtime = .func 0x0 ∧
  ∀ s : State, exec .xtime s = .next (s.showing (.byte
    (if s.unit.a.getLsbD 7 then (s.unit.a <<< 1) ^^^ 0x1B else s.unit.a <<< 1)))

/-- R81: GFMULT, label 0x1, is the loop of the rule, eight iterations of "add `a` where the low bit of `b` is set, double `a`, halve `b`" from 0; it is
commutative and associative, has 1 as identity and 0 as zero, and no zero divisors. `gfMult` is the function that `exec .gfmult` puts on the wire. -/
def Obligations.GfmultIsTheFieldProduct : Prop :=
  encode .gfmult = .func 0x1 ∧
  (∀ s : State, exec .gfmult s = .next (s.showing (.byte
    ((List.range 8).foldl (fun (q : Byte × Byte × Byte) _ =>
      (if q.2.2.getLsbD 0 then q.1 ^^^ q.2.1 else q.1, xtime q.2.1, q.2.2 >>> 1)) (0, s.unit.a, s.unit.b)).1))) ∧
  (∀ s : State, exec .gfmult s = .next (s.showing (.byte (gfMult s.unit.a s.unit.b)))) ∧
  (∀ a b, gfMult a b = gfMult b a) ∧
  (∀ a b c, gfMult (gfMult a b) c = gfMult a (gfMult b c)) ∧
  (∀ a, gfMult a 1 = a ∧ gfMult 1 a = a ∧ gfMult a 0 = 0 ∧ gfMult 0 a = 0) ∧
  (∀ a b, a ≠ 0 → b ≠ 0 → gfMult a b ≠ 0)

/-- R81, R82 (derived there): the product is the XOR of XTIME^i(a) over the bits i set in b; multiplication distributes over XOR in either operand, and
XTIME respects XOR and is a bijection (R80, derived there). -/
def Obligations.GfmultDistributesOverXor : Prop :=
  (∀ a b, gfMult a b = (List.range 8).foldl (fun p i => if b.getLsbD i then p ^^^ xtime^[i] a else p) 0) ∧
  (∀ a b c, gfMult a (b ^^^ c) = gfMult a b ^^^ gfMult a c ∧ gfMult (a ^^^ b) c = gfMult a c ^^^ gfMult b c ∧
    xtime (a ^^^ b) = xtime a ^^^ xtime b) ∧
  Function.Bijective xtime

/-- R84 to R89, R65: the six constant multipliers, their labels, and their XTIME forms, which R92 marks as derived (`x1`, `x2`, `x3` are the first three
doublings of the operand). -/
def Obligations.ConstantMultipliersInXtimeForm : Prop :=
  [Instr.mul02, .mul03, .mul09, .mul0b, .mul0d, .mul0e].map encode = [.func 2, .func 3, .func 4, .func 5, .func 6, .func 7] ∧
  ∀ s : State,
    let a := s.unit.a
    let x1 := xtime a
    let x2 := xtime x1
    let x3 := xtime x2
    exec .mul02 s = .next (s.showing (.byte x1)) ∧
    exec .mul03 s = .next (s.showing (.byte (x1 ^^^ a))) ∧
    exec .mul09 s = .next (s.showing (.byte (x3 ^^^ a))) ∧
    exec .mul0b s = .next (s.showing (.byte (x3 ^^^ x1 ^^^ a))) ∧
    exec .mul0d s = .next (s.showing (.byte (x3 ^^^ x2 ^^^ a))) ∧
    exec .mul0e s = .next (s.showing (.byte (x3 ^^^ x2 ^^^ x1)))

/-- R92 (derived there): each constant multiplier is GFMULT with its constant, maps 0 to 0 and is a bijection on the bytes. -/
def Obligations.ConstantMultipliersAreBijections : Prop :=
  ∀ f : Byte × (Byte → Byte),
    f ∈ [(0x02, mul02), (0x03, mul03), (0x09, mul09), (0x0B, mul0b), (0x0D, mul0d), (0x0E, mul0e)] →
      (∀ a, f.2 a = gfMult f.1 a) ∧ f.2 0 = 0 ∧ Function.Bijective f.2

/-- R90: RCON puts XTIME^(i-1)(1) in the top byte and zeros below it, for `i >= 1`; outside its domain, at 0, it is refused. -/
def Obligations.RconOfItsDomain : Prop :=
  encode .rcon = .func 0x8 ∧
  (∀ s : State, 1 ≤ s.unit.i →
    exec .rcon s = .next (s.showing (.word ((xtime^[s.unit.i - 1] 1).setWidth 32 <<< 24)))) ∧
  (∀ s : State, s.unit.i = 0 → exec .rcon s = .refused .rconZero)

/-- R91: the top bytes of RCON(1) to RCON(15); RCON is never zero and has period 51, with RCON(51) = 0x8D000000. `rcon` is the function that
`exec .rcon` puts on the wire, which the second clause says. -/
def Obligations.RconValuesAndPeriod : Prop :=
  (List.range 15).map (fun j => (rcon (j + 1) (Nat.le_add_left 1 j)).extractLsb' 24 8) =
      [0x01, 0x02, 0x04, 0x08, 0x10, 0x20, 0x40, 0x80, 0x1b, 0x36, 0x6c, 0xd8, 0xab, 0x4d, 0x9a] ∧
  (∀ (s : State) (h : 1 ≤ s.unit.i), exec .rcon s = .next (s.showing (.word (rcon s.unit.i h)))) ∧
  rcon 51 (by decide) = 0x8D000000 ∧
  ∀ (i : Nat) (h : 1 ≤ i), rcon (i + 51) (Nat.le_add_right_of_le h) = rcon i h ∧ rcon i h ≠ 0

/-- R100, R44: SUBBYTE, label 0x9, answers the entry of the table at its operand. -/
def Obligations.SubbyteReadsTheTable : Prop :=
  encode .subbyte = .func 0x9 ∧
  ∀ s : State, ∃ x, s.params.sbox.bytes[s.unit.a.toNat]? = some x ∧ exec .subbyte s = .next (s.showing (.byte x))

/-- R101, R102: INVSUBBYTE, label 0xA, answers the byte whose entry in the table its operand is. -/
def Obligations.InvsubbyteInvertsTheTable : Prop :=
  encode .invsubbyte = .func 0xA ∧
  ∀ s : State, ∃ x : Byte, s.params.sbox.bytes[x.toNat]? = some s.unit.a ∧
    exec .invsubbyte s = .next (s.showing (.byte x))

/-- R102: for every legal table, each substitution undoes the other at every byte, and the table is one-to-one and onto. `subByte` and `invSubByte` are the
functions that `exec .subbyte` and `exec .invsubbyte` put on the wire. -/
def Obligations.SubstitutionsAreMutuallyInverse : Prop :=
  (∀ s : State, exec .subbyte s = .next (s.showing (.byte (subByte s.params.sbox s.unit.a))) ∧
    exec .invsubbyte s = .next (s.showing (.byte (invSubByte s.params.sbox s.unit.a)))) ∧
  ∀ t : SubstTable, (∀ b : Byte, invSubByte t (subByte t b) = b ∧ subByte t (invSubByte t b) = b) ∧
    Function.Bijective (subByte t)

/-- R104: SUBWORD, label 0xB, substitutes each byte of a word in its own place. -/
def Obligations.SubwordSubstitutesEachByte : Prop :=
  encode .subword = .func 0xB ∧
  ∀ s : State, ∃ x : Word, exec .subword s = .next (s.showing (.word x)) ∧
    ∀ r : Fin 4, s.params.sbox.bytes[(s.unit.w.extractLsb' (24 - 8 * r.val) 8).toNat]? =
      some (x.extractLsb' (24 - 8 * r.val) 8)

/-- R105: ROTWORD, label 0xC, is the left rotation by eight bits: byte r of the result is byte r+1 of the operand, byte 3 its byte 0; four applications
restore the operand. -/
def Obligations.RotwordRotatesLeftByOneByte : Prop :=
  encode .rotword = .func 0xC ∧
  (∀ s : State, exec .rotword s = .next (s.showing (.word (s.unit.w.rotateLeft 8)))) ∧
  (∀ (w : Word) (r : Fin 4), wordByte (rotWord w) r = wordByte w (r + 1)) ∧
  (∀ w : Word, rotWord (rotWord (rotWord (rotWord w))) = w)

/-! ### Bytes, words and ports -/

/-- R13, R45: a word is its four bytes, the first the most significant; byte i of a block port is bits [127-8i : 120-8i], byte i of the key port bits
[255-8i : 248-8i]; packing and unpacking a block undo each other. -/
def Obligations.BytesOfWordsAndPorts : Prop :=
  (∀ b0 b1 b2 b3 : Byte,
    (wordOf b0 b1 b2 b3).toNat = b0.toNat * 2 ^ 24 + b1.toNat * 2 ^ 16 + b2.toNat * 2 ^ 8 + b3.toNat) ∧
  (∀ w : Word, wordOf (w.extractLsb' 24 8) (w.extractLsb' 16 8) (w.extractLsb' 8 8) (w.extractLsb' 0 8) = w) ∧
  (∀ (b : Seq16 Byte) (i : Fin 16), (packBlock b).extractLsb' (120 - 8 * i.val) 8 = b.get i) ∧
  (∀ (x : BitVec 256) (i : Fin 32) (j : Fin 8), (keyPortByte x i.val).getLsbD j.val = x.getLsbD (248 - 8 * i.val + j.val)) ∧
  (∀ (b : Seq16 Byte), unpackBlock (packBlock b) = b) ∧ (∀ x : BitVec 128, packBlock (unpackBlock x) = x)

/-! ### KEYEXPAND (spec file 42) -/

/-- R120 to R123: from the latched key, KEYEXPAND, UOP 0x10, writes NWORDS words and nothing else: the first Nk are the key's groups of four bytes, the first
byte the most significant, and word i is word i-Nk XOR the temp of the three cases of R123. -/
def Obligations.KeyexpandWritesTheSchedule : Prop :=
  encode .keyexpand = .uop 0x10 ∧
  ∀ (s : State) (key : List Byte),
    s.rqKey = key.map some → key.length = s.params.variant.keyBytes →
    let v := s.params.variant
    let t := s.params.sbox
    ∃ ws : List Word, exec .keyexpand s = .next { s with w := ws.map some } ∧ ws.length = v.nwords ∧
      (∀ i < v.nk, ∀ x, ws[i]? = some x → ∀ r : Fin 4,
        key[4 * i + r.val]? = some (x.extractLsb' (24 - 8 * r.val) 8)) ∧
      (∀ i, v.nk ≤ i → i < v.nwords → ∀ x prev old,
        ws[i]? = some x → ws[i - 1]? = some prev → ws[i - v.nk]? = some old →
        x = old ^^^
          (if i % v.nk = 0 then
            subWord t (rotWord prev) ^^^ ((xtime^[i / v.nk - 1] 1).setWidth 32 <<< 24)
          else if v = .aes256 ∧ i % v.nk = 4 then subWord t prev
          else prev))

/-- R125: the schedule depends on nothing but the latched key, the variant and the table. -/
def Obligations.ScheduleDependsOnTheKeyOnly : Prop :=
  ∀ s s' t : State, s.params = s'.params → s.rqKey = s'.rqKey → exec .keyexpand s = .next t →
    ∃ t', exec .keyexpand s' = .next t' ∧ t'.w = t.w

/-! ### The round transformations (spec files 43 and 44) -/

/-- R140: ADDROUNDKEY, UOP 0x20 | rnd, XORs byte r of word W[4*rnd+c] into the state byte in row r, column c; all else is unchanged. -/
def Obligations.AddroundkeyXorsTheRoundKey : Prop :=
  (∀ rnd, encode (.addroundkey rnd) = .uop (0x20 ||| rnd.setWidth 8)) ∧
  ∀ (s : State) (rnd : BitVec 4) (m : Grid Byte) (k : Quad Word),
    rnd.toNat ≤ s.params.variant.nr → s.st = m.map some →
    (∀ c : Fin 4, s.w[4 * rnd.toNat + c.val]? = some (some (k.get c))) →
    exec (.addroundkey rnd) s = .next (s.holding (Grid.ofFn fun r c =>
      m.cell r c ^^^ ((k.get c) >>> (24 - 8 * r.val)).setWidth 8))

/-- R66 c, R211 a: ADDROUNDKEY with `rnd > Nr` is a reserved word, and is refused by name. -/
def Obligations.AddroundkeyAboveNrIsRefused : Prop :=
  ∀ (s : State) (rnd : BitVec 4), s.params.variant.nr < rnd.toNat →
    exec (.addroundkey rnd) s = .refused (.reservedWord (.roundAboveNr (0x20#8 ||| rnd.setWidth 8)))

/-- R141: SUBBYTES, UOP 0x30, replaces each state byte by the table's entry at it. -/
def Obligations.SubbytesSubstitutesEachByte : Prop :=
  encode .subbytes = .uop 0x30 ∧
  ∀ (s : State) (m : Grid Byte), s.st = m.map some →
    ∃ m' : Grid Byte, exec .subbytes s = .next (s.holding m') ∧
      ∀ r c, s.params.sbox.bytes[(m.cell r c).toNat]? = some (m'.cell r c)

/-- R161: INVSUBBYTES, UOP 0x60, replaces each state byte by the byte whose table entry it is. -/
def Obligations.InvsubbytesSubstitutesEachByteBack : Prop :=
  encode .invsubbytes = .uop 0x60 ∧
  ∀ (s : State) (m : Grid Byte), s.st = m.map some →
    ∃ m' : Grid Byte, exec .invsubbytes s = .next (s.holding m') ∧
      ∀ r c, s.params.sbox.bytes[(m'.cell r c).toNat]? = some (m.cell r c)

/-- R142: SHIFTROWS, UOP 0x40, row by row as the rule's table lists it. -/
def Obligations.ShiftrowsRotatesRowsLeft : Prop :=
  encode .shiftrows = .uop 0x40 ∧
  ∀ (s : State) (m : Grid Byte), s.st = m.map some →
    exec .shiftrows s = .next (s.holding { rows :=
      { x0 := { x0 := m.cell 0 0, x1 := m.cell 0 1, x2 := m.cell 0 2, x3 := m.cell 0 3 }
        x1 := { x0 := m.cell 1 1, x1 := m.cell 1 2, x2 := m.cell 1 3, x3 := m.cell 1 0 }
        x2 := { x0 := m.cell 2 2, x1 := m.cell 2 3, x2 := m.cell 2 0, x3 := m.cell 2 1 }
        x3 := { x0 := m.cell 3 3, x1 := m.cell 3 0, x2 := m.cell 3 1, x3 := m.cell 3 2 } } })

/-- R160: INVSHIFTROWS, UOP 0x70, row by row as the rule's table lists it. -/
def Obligations.InvshiftrowsRotatesRowsRight : Prop :=
  encode .invshiftrows = .uop 0x70 ∧
  ∀ (s : State) (m : Grid Byte), s.st = m.map some →
    exec .invshiftrows s = .next (s.holding { rows :=
      { x0 := { x0 := m.cell 0 0, x1 := m.cell 0 1, x2 := m.cell 0 2, x3 := m.cell 0 3 }
        x1 := { x0 := m.cell 1 3, x1 := m.cell 1 0, x2 := m.cell 1 1, x3 := m.cell 1 2 }
        x2 := { x0 := m.cell 2 2, x1 := m.cell 2 3, x2 := m.cell 2 0, x3 := m.cell 2 1 }
        x3 := { x0 := m.cell 3 1, x1 := m.cell 3 2, x2 := m.cell 3 3, x3 := m.cell 3 0 } } })

/-- R143: MIXCOLUMNS, UOP 0x50: `s_r' = 02•s_r ^ 03•s_(r+1) ^ s_(r+2) ^ s_(r+3)`, the indices mod 4, in every column. -/
def Obligations.MixcolumnsMultipliesByTheCirculant : Prop :=
  encode .mixcolumns = .uop 0x50 ∧
  ∀ (s : State) (m : Grid Byte), s.st = m.map some →
    exec .mixcolumns s = .next (s.holding (Grid.ofFn fun r c =>
      gfMult 0x02 (m.cell r c) ^^^ gfMult 0x03 (m.cell (r + 1) c) ^^^ m.cell (r + 2) c ^^^ m.cell (r + 3) c))

/-- R162: INVMIXCOLUMNS, UOP 0x80: `s_r' = 0E•s_r ^ 0B•s_(r+1) ^ 0D•s_(r+2) ^ 09•s_(r+3)`, the indices mod 4, in every column. -/
def Obligations.InvmixcolumnsMultipliesByTheInverseCirculant : Prop :=
  encode .invmixcolumns = .uop 0x80 ∧
  ∀ (s : State) (m : Grid Byte), s.st = m.map some →
    exec .invmixcolumns s = .next (s.holding (Grid.ofFn fun r c =>
      gfMult 0x0E (m.cell r c) ^^^ gfMult 0x0B (m.cell (r + 1) c) ^^^ gfMult 0x0D (m.cell (r + 2) c)
        ^^^ gfMult 0x09 (m.cell (r + 3) c)))

/-- R160 to R162, R140, R181 (derived there): each round transformation is undone by its inverse, in either order, and ADDROUNDKEY by itself; STOREBLOCK
after LOADBLOCK gives the block back. -/
def Obligations.RoundTransformationsAreUndone : Prop :=
  (∀ (s : State) (b : Seq16 Byte), s.rqBlock = b.map some →
    ∃ t, exec .loadblock s = .next t ∧ exec .storeblock t = .next { t with out := b.map some }) ∧
  ∀ (s : State) (m : Grid Byte), s.st = m.map some →
    (∀ p ∈ [(Instr.shiftrows, Instr.invshiftrows), (.invshiftrows, .shiftrows), (.subbytes, .invsubbytes),
        (.invsubbytes, .subbytes), (.mixcolumns, .invmixcolumns), (.invmixcolumns, .mixcolumns)],
      ∃ t, exec p.1 s = .next t ∧ exec p.2 t = .next s) ∧
    (∀ (rnd : BitVec 4) (k : Quad Word), rnd.toNat ≤ s.params.variant.nr →
      (∀ c : Fin 4, s.w[4 * rnd.toNat + c.val]? = some (some (k.get c))) →
      ∃ t, exec (.addroundkey rnd) s = .next t ∧ exec (.addroundkey rnd) t = .next s)

/-- R143, R164 (derived there): the two column transformations respect XOR, so INVMIXCOLUMNS commutes with the XOR of a round key exactly where it fixes the
round key; and it does not commute in general: there is a matrix and a round key where the two orders differ. -/
def Obligations.ColumnTransformationsAreLinear : Prop :=
  let xorG := fun a b : Grid Byte => Grid.ofFn fun r c => a.cell r c ^^^ b.cell r c
  (∀ m n : Grid Byte,
    mixColumns (xorG m n) = xorG (mixColumns m) (mixColumns n) ∧
    invMixColumns (xorG m n) = xorG (invMixColumns m) (invMixColumns n) ∧
    (invMixColumns (xorG m n) = xorG (invMixColumns m) n ↔ invMixColumns n = n)) ∧
  ∃ m n : Grid Byte, invMixColumns (xorG m n) ≠ xorG (invMixColumns m) n

/-- R141, R161 (derived there): the byte substitutions commute with the row rotations. -/
def Obligations.SubstitutionCommutesWithRotation : Prop :=
  ∀ (t : SubstTable) (m : Grid Byte),
    shiftRows (subBytes t m) = subBytes t (shiftRows m) ∧
    invShiftRows (invSubBytes t m) = invSubBytes t (invShiftRows m)

/-! ### The block codec and the commands (spec file 45) -/

/-- R180, R41: LOADBLOCK, UOP 0x00, the matrix as R41 writes it out: byte i of the block in row i mod 4, column i / 4. -/
def Obligations.LoadblockIsColumnMajor : Prop :=
  encode .loadblock = .uop 0x00 ∧
  ∀ (s : State) (b : Seq16 Byte), s.rqBlock = b.map some →
    exec .loadblock s = .next (s.holding { rows :=
      { x0 := { x0 := b.get 0, x1 := b.get 4, x2 := b.get 8, x3 := b.get 12 }
        x1 := { x0 := b.get 1, x1 := b.get 5, x2 := b.get 9, x3 := b.get 13 }
        x2 := { x0 := b.get 2, x1 := b.get 6, x2 := b.get 10, x3 := b.get 14 }
        x3 := { x0 := b.get 3, x1 := b.get 7, x2 := b.get 11, x3 := b.get 15 } } })

/-- R181, R41: STOREBLOCK, UOP 0x90, writes `OUT[r + 4*c] = ST[r][c]` and nothing else. -/
def Obligations.StoreblockIsColumnMajor : Prop :=
  encode .storeblock = .uop 0x90 ∧
  ∀ (s : State) (m : Grid Byte), s.st = m.map some →
    ∃ b : Seq16 Byte, exec .storeblock s = .next { s with out := b.map some } ∧
      ∀ r c : Fin 4, b.get ⟨r.val + 4 * c.val, by omega⟩ = m.cell r c

/-- R185, R201 to R205: while no operation runs, a command is the accept step: wrong key length, error 1; else wrong block length, error 2; each
leaves FAULT, UPC 0, OUT none and all else as it was; else the request is latched, OUT none, no error, UPC 0, RUN. -/
def Obligations.CommandsAreTheAcceptStep : Prop :=
  ∀ (s : State) (i : Instr) (c : BitVec 1), (i, c) ∈ [(Instr.encode, 0#1), (Instr.decode, 1#1)] → s.mode ≠ .run →
    (s.pins.keyLen.toNat ≠ 4 * s.params.variant.nk →
      exec i s = .next { s with out := Seq16.empty, err := some .invalidKeyLength, mode := .fault, upc := 0 }) ∧
    (s.pins.keyLen.toNat = 4 * s.params.variant.nk → s.pins.blockLen ≠ 16 →
      exec i s = .next { s with out := Seq16.empty, err := some .invalidBlockLength, mode := .fault, upc := 0 }) ∧
    (s.pins.keyLen.toNat = 4 * s.params.variant.nk → s.pins.blockLen = 16 →
      exec i s = .next { s with
        out := Seq16.empty
        rqCmd := some c
        rqKey := (List.range (4 * s.params.variant.nk)).map fun j =>
          some ((s.pins.keyIn >>> (248 - 8 * j)).setWidth 8)
        rqBlock := Seq16.ofFn fun j => some ((s.pins.blockIn >>> (120 - 8 * j.val)).setWidth 8)
        err := none
        upc := 0
        mode := .run })

/-- R235, R185: while an operation runs a command is not taken and has no effect. -/
def Obligations.CommandsWhileRunningHaveNoEffect : Prop :=
  ∀ s : State, s.mode = .run → exec .encode s = .next s ∧ exec .decode s = .next s

/-! ### The words (spec file 30) -/

/-- R63 to R67: a word decodes to an instruction exactly if the instruction is well-formed on this core and the word is its encoding. -/
def Obligations.DecodeAndEncodeAgree : Prop :=
  ∀ (v : Variant) (x : EncWord) (i : Instr), decode v x = .ok i ↔ i.wf v = true ∧ encode i = x

/-- R61, R64, R65: words written out bit by bit from the spec's tables, one or more a family, and what they decode to. -/
def Obligations.WordsDecodeToTheirRows : Prop :=
  ∀ v : Variant,
    decode v (.cmd 0b0#1) = .ok .encode ∧ decode v (.cmd 0b1#1) = .ok .decode ∧
    decode v (.uop 0b00000000#8) = .ok .loadblock ∧ decode v (.uop 0b00010000#8) = .ok .keyexpand ∧
    decode v (.uop 0b00101010#8) = .ok (.addroundkey 10) ∧ decode v (.uop 0b01010000#8) = .ok .mixcolumns ∧
    decode v (.uop 0b01110000#8) = .ok .invshiftrows ∧ decode v (.uop 0b10010000#8) = .ok .storeblock ∧
    decode v (.func 0b0001#4) = .ok .gfmult ∧ decode v (.func 0b1000#4) = .ok .rcon ∧
    decode v (.func 0b1010#4) = .ok .invsubbyte ∧ decode v (.func 0b1100#4) = .ok .rotword

/-- R66, R67: the reserved UOP words are exactly these, each refused: opcode 0xA to 0xF; a non-zero operand on an opcode other than 0x2; ADDROUNDKEY
with `rnd > Nr`. The reserved FUNC labels are 0xD to 0xF; no CMD word is reserved (R61). -/
def Obligations.ReservedWordsAreRefused : Prop :=
  (∀ (v : Variant) (u : BitVec 8),
    (∃ why, decode v (.uop u) = .error why) ↔
      (0xA ≤ u.toNat / 16 ∨ (u.toNat / 16 ≠ 2 ∧ u.toNat % 16 ≠ 0) ∨ (u.toNat / 16 = 2 ∧ v.nr < u.toNat % 16))) ∧
  (∀ (v : Variant) (f : BitVec 4), (∃ why, decode v (.func f) = .error why) ↔ 0xD ≤ f.toNat) ∧
  ∀ (v : Variant) (c : BitVec 1), ∃ i, decode v (.cmd c) = .ok i

/-! ### The sequencer -/

/-- R184, R8: PROGRAM, line by line, in UOP words; its length is UPLEN = 4*Nr + 3. -/
def Obligations.ProgramListing : Prop :=
  ∀ v : Variant,
    let e := program v 0
    let d := program v 1
    e.length = 4 * v.nr + 3 ∧ d.length = 4 * v.nr + 3 ∧
    e.take 3 = [0x00, 0x10, 0x20] ∧ d.take 3 = [0x00, 0x10, 0x20 ||| BitVec.ofNat 8 v.nr] ∧
    (∀ round, 1 ≤ round → round ≤ v.nr - 1 →
      (e.drop (4 * round - 1)).take 4 = [0x30, 0x40, 0x50, 0x20 ||| BitVec.ofNat 8 round]) ∧
    (∀ j, 1 ≤ j → j ≤ v.nr - 1 →
      (d.drop (4 * j - 1)).take 4 = [0x70, 0x60, 0x20 ||| BitVec.ofNat 8 (v.nr - j), 0x80]) ∧
    e.drop (4 * v.nr - 1) = [0x30, 0x40, 0x20 ||| BitVec.ofNat 8 v.nr, 0x90] ∧
    d.drop (4 * v.nr - 1) = [0x70, 0x60, 0x20, 0x90]

/-- R66 (derived there), R211 a: no program holds a reserved word. -/
def Obligations.ProgramsHoldNoReservedWord : Prop :=
  ∀ (v : Variant) (c : BitVec 1) (u : BitVec 8), u ∈ program v c → ∃ i, decode v (.uop u) = .ok i

/-- R145: how often each forward stage stands in the ENCODE program. -/
def Obligations.CipherStageCounts : Prop :=
  ∀ v : Variant,
    let e := program v 0
    (e.filter fun u => u.extractLsb' 4 4 = 0x2#4) = (List.range (v.nr + 1)).map (fun j => 0x20 ||| BitVec.ofNat 8 j) ∧
    e.count 0x30 = v.nr ∧ e.count 0x40 = v.nr ∧ e.count 0x50 = v.nr - 1

/-- R230: with `rst` high the step is the reset step, in every mode and before anything else; `params` and the wires keep their values. What the last
four fields become is the model's choice: `pins` and `script` are the host's move (log 4), `bench` is emptied (log 6), `draws` is counted on (log 7). -/
def Obligations.ResetStepClearsTheCore : Prop :=
  ∀ s : State, s.pins.rst = true →
    step s = .next { s with
      mode := .idle, upc := 0, err := none
      st := Grid.empty
      w := List.replicate (4 * (s.params.variant.nr + 1)) none
      rqCmd := none
      rqKey := List.replicate (4 * s.params.variant.nk) none
      rqBlock := Seq16.empty
      out := Seq16.empty
      pins := s.script.headD s.pins, script := s.script.tail, bench := none, draws := s.draws + 1 }

/-- R230, R31: the state after reset of a core with any parameters. The levels of the ports and the model's own fields are the model's choices
(log 4 to log 7) and are not part of this statement. -/
def Obligations.StateAfterReset : Prop :=
  (∀ p : Params,
    let s := State.resetOf p
    s.params = p ∧ s.mode = .idle ∧ s.upc = 0 ∧ s.err = none ∧ s.st = Grid.empty ∧
      s.w = List.replicate p.variant.nwords none ∧ s.rqCmd = none ∧
      s.rqKey = List.replicate p.variant.keyBytes none ∧ s.rqBlock = Seq16.empty ∧ s.out = Seq16.empty ∧
      s.ready = true ∧ s.done = false ∧ s.errPort = 0) ∧
  State.reset = State.resetOf Config.params

/-- R185: while no operation runs, a step with `req` high is the command that the port carries; with `req` low nothing happens but the world's
move (R232). -/
def Obligations.AReadyStepRunsThePresentedCommand : Prop :=
  ∀ s : State, s.pins.rst = false → s.bench = none → s.mode ≠ .run →
    (s.pins.req = true → step s = onNext State.tick (exec (if s.pins.cmd = 0 then .encode else .decode) s)) ∧
    (s.pins.req = false → step s = .next { s with
      pins := s.script.headD s.pins, script := s.script.tail, draws := s.draws + 1 })

/-- R186, R187: in RUN a step runs the decoded micro-operation that PROGRAM(RQ_CMD) holds at UPC, and then goes to the next index or, after the
last, completes: DONE, UPC 0, ST, W and RQ none, OUT kept. `State.tick` (the host's next levels, log 4; the draw counter, log 7) and the empty bench (log 6) are
the model's choices. -/
def Obligations.AMicroStepRunsTheDecodedWord : Prop :=
  ∀ (s : State) (c : BitVec 1) (u : BitVec 8) (i : Instr),
    s.pins.rst = false → s.bench = none → s.mode = .run → s.rqCmd = some c →
    (program s.params.variant c)[s.upc.toNat]? = some u → decode s.params.variant (.uop u) = .ok i →
    step s = onNext (fun t => State.tick
      (if s.upc.toNat < 4 * s.params.variant.nr + 2 then { t with upc := s.upc + 1 }
       else { t with
        mode := .done, upc := 0, st := Grid.empty, w := List.replicate (4 * (s.params.variant.nr + 1)) none
        rqCmd := none, rqKey := List.replicate (4 * s.params.variant.nk) none, rqBlock := Seq16.empty })) (exec i s)

/-- The model's choice (log 5, log 6): a function-unit label on the bench is evaluated by the step in any mode: where exec answers a next state, that state
is `s` with a value on the result wire and nothing else changed, and `State.tick` follows (the host's levels, log 4; the bench emptied, log 6; the draw
counter, log 7). A label that names nothing is refused (R67), and so is any other word there (R191). -/
def Obligations.ABenchStepEvaluatesTheUnit : Prop :=
  ∀ (s : State) (x : EncWord), s.pins.rst = false → s.bench = some x →
    (∀ f i, x = .func f → decode s.params.variant x = .ok i → step s = onNext State.tick (exec i s) ∧
      ∀ t, exec i s = .next t → ∃ r, t = s.showing r ∧ step s = .next (s.showing r).tick) ∧
    (∀ why, decode s.params.variant x = .error why → step s = .refused (.reservedWord why)) ∧
    (∀ i, (∀ f, x ≠ .func f) → decode s.params.variant x = .ok i → step s = .refused .notIssuable)

/-- The model's choice (log 9): a number that names an instruction, placed where the next step fetches, is what the next step runs. -/
def Obligations.ThePlacedWordIsFetched : Prop :=
  ∀ (s : State) (nbits n : Nat) (x : EncWord) (i : Instr),
    tableWord nbits n = some x → decode s.params.variant x = .ok i →
    let s' := s.withFetchWord nbits n
    s'.event = .command i ∨ s'.event = .micro i ∨ s'.event = .unit i

/-! ### Outputs -/

/-- R26, R27: the status outputs as functions of MODE and ERR, and the codes of ERR. -/
def Obligations.StatusOutputs : Prop :=
  (∀ s : State, (s.ready = true ↔ s.mode = .idle ∨ s.mode = .done ∨ s.mode = .fault) ∧
    (s.done = true ↔ s.mode = .done) ∧
    (s.errPort = 0 ↔ s.err = none) ∧ (s.errPort = 1 ↔ s.err = some .invalidKeyLength) ∧
    (s.errPort = 2 ↔ s.err = some .invalidBlockLength) ∧ s.errPort ≠ 3) ∧
  (∀ e, errOfCode (errCode e) = some e) ∧ errOfCode 3 = none

/-- R23, R32, R187, R237: while `done = 1`, `block_out` carries OUT, byte i in bits [127-8i : 120-8i], and keeps it through every step that neither
resets nor takes a request. -/
def Obligations.BlockOutCarriesTheResult : Prop :=
  ∀ (s : State) (b : Seq16 Byte), s.mode = .done → s.out = b.map some →
    (∃ x, s.blockOut = .ok x ∧ ∀ i : Fin 16, x.extractLsb' (120 - 8 * i.val) 8 = b.get i) ∧
    (s.pins.rst = false → s.bench = none → s.pins.req = false →
      ∃ t, step s = .next t ∧ t.mode = .done ∧ t.blockOut = s.blockOut)

/-! ### The whole machine -/

/-- R30, R211 b, U5: a micro-operation that reads a register holding none stops with the fault of that name, and so does the port `block_out`, which while
`done = 1` reads OUT; no value is supplied. While `done = 0` the port carries a level, whatever OUT holds (U6). -/
def Obligations.AReadOfNoneFaults : Prop :=
  ∀ s : State,
    (s.st.all? = none →
      (∀ i ∈ [Instr.subbytes, .shiftrows, .mixcolumns, .invsubbytes, .invshiftrows, .invmixcolumns, .storeblock],
        exec i s = .fault (.readNone .st)) ∧
      ∀ rnd : BitVec 4, rnd.toNat ≤ s.params.variant.nr → exec (.addroundkey rnd) s = .fault (.readNone .st)) ∧
    (s.rqBlock.all? = none → exec .loadblock s = .fault (.readNone .rqBlock)) ∧
    (allSome s.rqKey = none → s.rqKey.length = s.params.variant.keyBytes →
      exec .keyexpand s = .fault (.readNone .rqKey)) ∧
    (∀ (rnd : BitVec 4) (m : Grid Byte), rnd.toNat ≤ s.params.variant.nr → s.st = m.map some →
      s.w.length = s.params.variant.nwords → (∃ c : Fin 4, s.w[4 * rnd.toNat + c.val]? = some none) →
      exec (.addroundkey rnd) s = .fault (.readNone .w)) ∧
    (s.mode = .done → s.out.all? = none → s.blockOut = .error (.readNone .out)) ∧
    (s.mode ≠ .done → ∃ x, s.blockOut = .ok x)

/-- R24: the codes of MODE, and its only transitions: to IDLE by reset; from IDLE, DONE or FAULT to RUN or FAULT by an accept step; from RUN to DONE at the end of the
last micro-operation. -/
def Obligations.ModeTransitions : Prop :=
  [Mode.idle, .run, .done, .fault].map Mode.code = [0, 1, 2, 3] ∧
  ∀ s t : State, step s = .next t → t.mode ≠ s.mode →
    (s.pins.rst = true ∧ t.mode = .idle) ∨
    (s.pins.rst = false ∧ s.pins.req = true ∧ s.mode ≠ .run ∧ (t.mode = .run ∨ t.mode = .fault)) ∨
    (s.pins.rst = false ∧ s.mode = .run ∧ s.upc.toNat = 4 * s.params.variant.nr + 2 ∧ t.mode = .done)

/-- R31, R20 to R26, R28: who writes each register. A register that a step changes was written by one of the writers its row of R31 names; the
parameters never change. -/
def Obligations.RegisterWriters : Prop :=
  ∀ s t : State, step s = .next t →
    let reset := s.pins.rst = true
    let accepting := s.pins.rst = false ∧ s.mode ≠ .run ∧ s.pins.req = true
    let completing := s.pins.rst = false ∧ s.mode = .run ∧ s.upc.toNat = 4 * s.params.variant.nr + 2
    let runs := fun i : Instr => s.pins.rst = false ∧ s.mode = .run ∧ s.event = .micro i
    t.params = s.params ∧
    (t.st ≠ s.st → reset ∨ completing ∨ runs .loadblock ∨ (∃ rnd, runs (.addroundkey rnd)) ∨ runs .subbytes ∨
      runs .shiftrows ∨ runs .mixcolumns ∨ runs .invsubbytes ∨ runs .invshiftrows ∨ runs .invmixcolumns) ∧
    (t.w ≠ s.w → reset ∨ completing ∨ runs .keyexpand) ∧
    (t.rqCmd ≠ s.rqCmd ∨ t.rqKey ≠ s.rqKey ∨ t.rqBlock ≠ s.rqBlock → reset ∨ completing ∨ accepting) ∧
    (t.out ≠ s.out → reset ∨ accepting ∨ runs .storeblock) ∧
    (t.err ≠ s.err → reset ∨ accepting) ∧
    (t.upc ≠ s.upc → reset ∨ accepting ∨ s.mode = .run)

/-- R185, R235, R236: in RUN `ready` is 0 and a step pays no heed to the input ports other than `rst`: with any other levels on them it does the same. That
the next levels are the script's, or the present ones where it is empty, is the model's choice (log 4), as is the empty bench (log 6). -/
def Obligations.RunningIgnoresTheInputs : Prop :=
  ∀ (s t : State) (p : Pins), s.mode = .run → s.bench = none → s.pins.rst = false → p.rst = false →
    step s = .next t → s.ready = false ∧ step { s with pins := p } = .next { t with pins := s.script.headD p }

/-- R25, R26, R30, R31, C14: the invariant of `Sys2Proof.Machine.State.Inv`, for a core just reset. -/
def Obligations.ResetMeetsTheInvariant : Prop := ∀ p : Params, (State.resetOf p).Inv

/-- R25, R26, R30, R31, C14: every step from a state that meets the invariant leads to one that meets it. -/
def Obligations.EveryStepKeepsTheInvariant : Prop := ∀ s t : State, s.Inv → step s = .next t → t.Inv

/-- R187, R29, R211: from a state that meets the invariant every step of the core answers a next state: no micro step faults, and no reserved word is
met. The bench, the model's own, is empty. -/
def Obligations.NoStepOfTheCoreStops : Prop := ∀ s : State, s.Inv → s.bench = none → ∃ t, step s = .next t

/-- R188, R182, R183, R239: from any state with `ready = 1`, a request and then UPLEN undisturbed micro steps end as OPERATE says: the error, after one
step, in FAULT; or the block, after exactly 1 + UPLEN steps, in DONE, RUN all the way before. The other inputs may change at will: they come from the script (log 4), and the bench is empty (log 6), as `undisturbed`
says. -/
def Obligations.TheSteppedMachineComputesOperate : Prop :=
  ∀ s : State, s.mode ≠ .run → s.pins.req = true → s.undisturbed s.params.variant.uplen →
    match operate s.params s.pins.cmd s.requestKeyBytes s.requestBlockBytes with
    | .error e => ∃ t : State, Sys2Proof.core.run 1 s = .next t ∧ t.mode = .fault ∧ t.err = some e ∧ t.out = Seq16.empty
    | .ok b =>
      (∀ j, 1 ≤ j → j ≤ s.params.variant.uplen →
        ∃ u : State, Sys2Proof.core.run j s = .next u ∧ u.mode = .run ∧ u.err = none) ∧
      ∃ t : State, Sys2Proof.core.run (1 + s.params.variant.uplen) s = .next t ∧
        t.mode = .done ∧ t.err = none ∧ t.out = b.map some ∧ t.blockOut = .ok (packBlock b)

/-- R29: what the ports show from an accept step on does not depend on anything before it: two cores with the same parameters and the same host, whatever
their registers hold, agree on MODE, ERR and OUT after every number of steps. The host is its levels now and its script (log 4); the benches are empty (log 6). -/
def Obligations.TheResponseForgetsTheHistory : Prop :=
  ∀ s s' : State, s.mode ≠ .run → s'.mode ≠ .run → s.params = s'.params → s.pins = s'.pins → s.script = s'.script →
    s.bench = none → s'.bench = none → s.pins.rst = false → s.pins.req = true →
    ∀ (n : Nat) (t : State), Sys2Proof.core.run (n + 1) s = .next t →
      ∃ t' : State, Sys2Proof.core.run (n + 1) s' = .next t' ∧ t'.mode = t.mode ∧ t'.err = t.err ∧ t'.out = t.out

/-- R165: for every schedule and every legal table INVCIPHER undoes CIPHER, and CIPHER undoes INVCIPHER. A list `ws` of `NWORDS` words is a complete schedule;
for any other list the statement rests on the model's choice of log 17 (a word that the list lacks counts as 0) and says nothing of the core. -/
def Obligations.InvcipherUndoesCipher : Prop :=
  ∀ (v : Variant) (t : SubstTable) (ws : List Word) (m : Grid Byte),
    invCipher v t ws (cipher v t ws m) = m ∧ cipher v t ws (invCipher v t ws m) = m

/-- R189: the round trip, for every core, every key of the variant's length and every block, in both directions; and a key of another length is an
error, never a block. -/
def Obligations.DecodingUndoesEncoding : Prop :=
  ∀ (p : Params) (key : List Byte) (b : Seq16 Byte),
    (key.length = p.variant.keyBytes →
      (∃ c, operate p 0 key b.toList = .ok c ∧ operate p 1 key c.toList = .ok b) ∧
      (∃ c, operate p 1 key b.toList = .ok c ∧ operate p 0 key c.toList = .ok b)) ∧
    (key.length ≠ p.variant.keyBytes →
      operate p 0 key b.toList = .error .invalidKeyLength ∧ operate p 1 key b.toList = .error .invalidKeyLength)

/-- R144, R163, R184: the programs are LOADBLOCK (0x00), KEYEXPAND (0x10), the sequence of CIPHER or INVCIPHER, STOREBLOCK (0x90); run as instructions over
a matrix and a complete schedule, the sequence of a program is the function of that name. -/
def Obligations.TheProgramsRunTheSequences : Prop :=
  (∀ (v : Variant) (c : BitVec 1), (program v c).take 2 = [0x00, 0x10] ∧ (program v c).getLast? = some 0x90) ∧
  ∀ (s : State) (m : Grid Byte) (ws : List Word), s.st = m.map some → s.w = ws.map some →
    ws.length = s.params.variant.nwords →
    let runs := fun c : BitVec 1 =>
      (((program s.params.variant c).drop 2).dropLast).foldl
        (fun o u => match o, decode s.params.variant (.uop u) with
          | Host.Outcome.next a, .ok i => exec i a
          | o, _ => o)
        (Host.Outcome.next s : Host.Outcome State Fault Refusal)
    runs 0 = .next (s.holding (cipher s.params.variant s.params.sbox ws m)) ∧
    runs 1 = .next (s.holding (invCipher s.params.variant s.params.sbox ws m))

/-! ### The named tables (tests of the tables themselves; none is the hardware's) -/

/-- R107: with the identity table the two substitutions leave every byte as it is. -/
def Obligations.TheIdentityTableSubstitutesNothing : Prop :=
  ∀ b : Byte, subByte sboxId b = b ∧ invSubByte sboxId b = b

/-- R106: each entry of SBOX_FIPS197 is the affine map with constant 0x63 of the field inverse of its index, that of 0 being 0; its inverse is the second
table of the rule. -/
def Obligations.TheFipsTableIsAffineOfTheInverse : Prop :=
  (∀ b : Byte, ∃ x : Byte, (if b = 0 then x = 0 else gfMult b x = 1) ∧
    ∀ i : Fin 8, (subByte sboxFips197 b).getLsbD i.val =
      (x.getLsbD i.val ^^ x.getLsbD ((i.val + 4) % 8) ^^ x.getLsbD ((i.val + 5) % 8) ^^ x.getLsbD ((i.val + 6) % 8)
        ^^ x.getLsbD ((i.val + 7) % 8) ^^ (0x63#8).getLsbD i.val)) ∧
  (∀ b : Byte, invFips197[b.toNat]? = some (invSubByte sboxFips197 b)) ∧
  (∀ b : Byte, subByte sboxFips197 b ≠ b)

/-! ### The numbers of the opcode table -/

/-- R60, R66, R67, R70 (the numbers' form is log 8, the placing logs 6 and 9): a number of 1 bit is a CMD word, of 4 bits a FUNC label, of 8 bits a UOP word, and
`decodeTableWord` is the decoder on that word; a number that is a reserved word decodes to nothing, and placed where the step fetches, it is refused. -/
def Obligations.ReservedNumbersAreRefused : Prop :=
  (∀ c : BitVec 1, tableWord 1 c.toNat = some (.cmd c)) ∧ (∀ f : BitVec 4, tableWord 4 f.toNat = some (.func f)) ∧
  (∀ u : BitVec 8, tableWord 8 u.toNat = some (.uop u)) ∧
  (∀ (nbits n : Nat) (i : Instr),
    decodeTableWord nbits n = some i ↔ ∃ x, tableWord nbits n = some x ∧ decode Config.variant x = .ok i) ∧
  ∀ (s : State) (nbits n : Nat) (x : EncWord) (why : DecodeReject),
    tableWord nbits n = some x → decode s.params.variant x = .error why →
    step (s.withFetchWord nbits n) = .refused (.reservedWord why)
end

