-- ==== Sys2Proof/Laws/State.lean ====
section
/-! SUPPORT. One lemma for each field of the state under each named update, so that no proof unfolds a record update. -/

namespace Sys2Proof.Machine

variable (s : State)

@[simp] theorem State.writeSt_params (m : Grid Byte) : (s.writeSt m).params = s.params := rfl
@[simp] theorem State.writeSt_st (m : Grid Byte) : (s.writeSt m).st = m.map some := rfl
@[simp] theorem State.writeSt_w (m : Grid Byte) : (s.writeSt m).w = s.w := rfl
@[simp] theorem State.writeSt_rqCmd (m : Grid Byte) : (s.writeSt m).rqCmd = s.rqCmd := rfl
@[simp] theorem State.writeSt_rqKey (m : Grid Byte) : (s.writeSt m).rqKey = s.rqKey := rfl
@[simp] theorem State.writeSt_rqBlock (m : Grid Byte) : (s.writeSt m).rqBlock = s.rqBlock := rfl
@[simp] theorem State.writeSt_out (m : Grid Byte) : (s.writeSt m).out = s.out := rfl
@[simp] theorem State.writeSt_mode (m : Grid Byte) : (s.writeSt m).mode = s.mode := rfl
@[simp] theorem State.writeSt_upc (m : Grid Byte) : (s.writeSt m).upc = s.upc := rfl
@[simp] theorem State.writeSt_err (m : Grid Byte) : (s.writeSt m).err = s.err := rfl
@[simp] theorem State.writeSt_pins (m : Grid Byte) : (s.writeSt m).pins = s.pins := rfl
@[simp] theorem State.writeSt_script (m : Grid Byte) : (s.writeSt m).script = s.script := rfl
@[simp] theorem State.writeSt_unit (m : Grid Byte) : (s.writeSt m).unit = s.unit := rfl
@[simp] theorem State.writeSt_bench (m : Grid Byte) : (s.writeSt m).bench = s.bench := rfl
@[simp] theorem State.writeSt_draws (m : Grid Byte) : (s.writeSt m).draws = s.draws := rfl

@[simp] theorem State.writeW_params (ws : List Word) : (s.writeW ws).params = s.params := rfl
@[simp] theorem State.writeW_st (ws : List Word) : (s.writeW ws).st = s.st := rfl
@[simp] theorem State.writeW_w (ws : List Word) : (s.writeW ws).w = ws.map some := rfl
@[simp] theorem State.writeW_rqCmd (ws : List Word) : (s.writeW ws).rqCmd = s.rqCmd := rfl
@[simp] theorem State.writeW_rqKey (ws : List Word) : (s.writeW ws).rqKey = s.rqKey := rfl
@[simp] theorem State.writeW_rqBlock (ws : List Word) : (s.writeW ws).rqBlock = s.rqBlock := rfl
@[simp] theorem State.writeW_out (ws : List Word) : (s.writeW ws).out = s.out := rfl
@[simp] theorem State.writeW_mode (ws : List Word) : (s.writeW ws).mode = s.mode := rfl
@[simp] theorem State.writeW_upc (ws : List Word) : (s.writeW ws).upc = s.upc := rfl
@[simp] theorem State.writeW_err (ws : List Word) : (s.writeW ws).err = s.err := rfl
@[simp] theorem State.writeW_pins (ws : List Word) : (s.writeW ws).pins = s.pins := rfl
@[simp] theorem State.writeW_script (ws : List Word) : (s.writeW ws).script = s.script := rfl
@[simp] theorem State.writeW_unit (ws : List Word) : (s.writeW ws).unit = s.unit := rfl
@[simp] theorem State.writeW_bench (ws : List Word) : (s.writeW ws).bench = s.bench := rfl
@[simp] theorem State.writeW_draws (ws : List Word) : (s.writeW ws).draws = s.draws := rfl

@[simp] theorem State.writeOut_params (b : Seq16 Byte) : (s.writeOut b).params = s.params := rfl
@[simp] theorem State.writeOut_st (b : Seq16 Byte) : (s.writeOut b).st = s.st := rfl
@[simp] theorem State.writeOut_w (b : Seq16 Byte) : (s.writeOut b).w = s.w := rfl
@[simp] theorem State.writeOut_rqCmd (b : Seq16 Byte) : (s.writeOut b).rqCmd = s.rqCmd := rfl
@[simp] theorem State.writeOut_rqKey (b : Seq16 Byte) : (s.writeOut b).rqKey = s.rqKey := rfl
@[simp] theorem State.writeOut_rqBlock (b : Seq16 Byte) : (s.writeOut b).rqBlock = s.rqBlock := rfl
@[simp] theorem State.writeOut_out (b : Seq16 Byte) : (s.writeOut b).out = b.map some := rfl
@[simp] theorem State.writeOut_mode (b : Seq16 Byte) : (s.writeOut b).mode = s.mode := rfl
@[simp] theorem State.writeOut_upc (b : Seq16 Byte) : (s.writeOut b).upc = s.upc := rfl
@[simp] theorem State.writeOut_err (b : Seq16 Byte) : (s.writeOut b).err = s.err := rfl
@[simp] theorem State.writeOut_pins (b : Seq16 Byte) : (s.writeOut b).pins = s.pins := rfl
@[simp] theorem State.writeOut_script (b : Seq16 Byte) : (s.writeOut b).script = s.script := rfl
@[simp] theorem State.writeOut_unit (b : Seq16 Byte) : (s.writeOut b).unit = s.unit := rfl
@[simp] theorem State.writeOut_bench (b : Seq16 Byte) : (s.writeOut b).bench = s.bench := rfl
@[simp] theorem State.writeOut_draws (b : Seq16 Byte) : (s.writeOut b).draws = s.draws := rfl

@[simp] theorem State.writeResult_params (r : UnitResult) : (s.writeResult r).params = s.params := rfl
@[simp] theorem State.writeResult_st (r : UnitResult) : (s.writeResult r).st = s.st := rfl
@[simp] theorem State.writeResult_w (r : UnitResult) : (s.writeResult r).w = s.w := rfl
@[simp] theorem State.writeResult_rqCmd (r : UnitResult) : (s.writeResult r).rqCmd = s.rqCmd := rfl
@[simp] theorem State.writeResult_rqKey (r : UnitResult) : (s.writeResult r).rqKey = s.rqKey := rfl
@[simp] theorem State.writeResult_rqBlock (r : UnitResult) : (s.writeResult r).rqBlock = s.rqBlock := rfl
@[simp] theorem State.writeResult_out (r : UnitResult) : (s.writeResult r).out = s.out := rfl
@[simp] theorem State.writeResult_mode (r : UnitResult) : (s.writeResult r).mode = s.mode := rfl
@[simp] theorem State.writeResult_upc (r : UnitResult) : (s.writeResult r).upc = s.upc := rfl
@[simp] theorem State.writeResult_err (r : UnitResult) : (s.writeResult r).err = s.err := rfl
@[simp] theorem State.writeResult_pins (r : UnitResult) : (s.writeResult r).pins = s.pins := rfl
@[simp] theorem State.writeResult_script (r : UnitResult) : (s.writeResult r).script = s.script := rfl
@[simp] theorem State.writeResult_unit (r : UnitResult) : (s.writeResult r).unit = { s.unit with result := some r } := rfl
@[simp] theorem State.writeResult_bench (r : UnitResult) : (s.writeResult r).bench = s.bench := rfl
@[simp] theorem State.writeResult_draws (r : UnitResult) : (s.writeResult r).draws = s.draws := rfl

@[simp] theorem State.raise_params (e : LengthError) : (s.raise e).params = s.params := rfl
@[simp] theorem State.raise_st (e : LengthError) : (s.raise e).st = s.st := rfl
@[simp] theorem State.raise_w (e : LengthError) : (s.raise e).w = s.w := rfl
@[simp] theorem State.raise_rqCmd (e : LengthError) : (s.raise e).rqCmd = s.rqCmd := rfl
@[simp] theorem State.raise_rqKey (e : LengthError) : (s.raise e).rqKey = s.rqKey := rfl
@[simp] theorem State.raise_rqBlock (e : LengthError) : (s.raise e).rqBlock = s.rqBlock := rfl
@[simp] theorem State.raise_out (e : LengthError) : (s.raise e).out = Seq16.empty := rfl
@[simp] theorem State.raise_mode (e : LengthError) : (s.raise e).mode = .fault := rfl
@[simp] theorem State.raise_upc (e : LengthError) : (s.raise e).upc = 0 := rfl
@[simp] theorem State.raise_err (e : LengthError) : (s.raise e).err = some e := rfl
@[simp] theorem State.raise_pins (e : LengthError) : (s.raise e).pins = s.pins := rfl
@[simp] theorem State.raise_script (e : LengthError) : (s.raise e).script = s.script := rfl
@[simp] theorem State.raise_unit (e : LengthError) : (s.raise e).unit = s.unit := rfl
@[simp] theorem State.raise_bench (e : LengthError) : (s.raise e).bench = s.bench := rfl
@[simp] theorem State.raise_draws (e : LengthError) : (s.raise e).draws = s.draws := rfl

@[simp] theorem State.startRun_params (cmd : BitVec 1) : (s.startRun cmd).params = s.params := rfl
@[simp] theorem State.startRun_st (cmd : BitVec 1) : (s.startRun cmd).st = s.st := rfl
@[simp] theorem State.startRun_w (cmd : BitVec 1) : (s.startRun cmd).w = s.w := rfl
@[simp] theorem State.startRun_rqCmd (cmd : BitVec 1) : (s.startRun cmd).rqCmd = some cmd := rfl
@[simp] theorem State.startRun_rqKey (cmd : BitVec 1) : (s.startRun cmd).rqKey = s.requestKey.map some := rfl
@[simp] theorem State.startRun_rqBlock (cmd : BitVec 1) : (s.startRun cmd).rqBlock = (unpackBlock s.pins.blockIn).map some := rfl
@[simp] theorem State.startRun_out (cmd : BitVec 1) : (s.startRun cmd).out = Seq16.empty := rfl
@[simp] theorem State.startRun_mode (cmd : BitVec 1) : (s.startRun cmd).mode = .run := rfl
@[simp] theorem State.startRun_upc (cmd : BitVec 1) : (s.startRun cmd).upc = 0 := rfl
@[simp] theorem State.startRun_err (cmd : BitVec 1) : (s.startRun cmd).err = none := rfl
@[simp] theorem State.startRun_pins (cmd : BitVec 1) : (s.startRun cmd).pins = s.pins := rfl
@[simp] theorem State.startRun_script (cmd : BitVec 1) : (s.startRun cmd).script = s.script := rfl
@[simp] theorem State.startRun_unit (cmd : BitVec 1) : (s.startRun cmd).unit = s.unit := rfl
@[simp] theorem State.startRun_bench (cmd : BitVec 1) : (s.startRun cmd).bench = s.bench := rfl
@[simp] theorem State.startRun_draws (cmd : BitVec 1) : (s.startRun cmd).draws = s.draws := rfl

@[simp] theorem State.discard_params : s.discard.params = s.params := rfl
@[simp] theorem State.discard_st : s.discard.st = Grid.empty := rfl
@[simp] theorem State.discard_w : s.discard.w = List.replicate s.params.variant.nwords none := rfl
@[simp] theorem State.discard_rqCmd : s.discard.rqCmd = none := rfl
@[simp] theorem State.discard_rqKey : s.discard.rqKey = List.replicate s.params.variant.keyBytes none := rfl
@[simp] theorem State.discard_rqBlock : s.discard.rqBlock = Seq16.empty := rfl
@[simp] theorem State.discard_out : s.discard.out = s.out := rfl
@[simp] theorem State.discard_mode : s.discard.mode = s.mode := rfl
@[simp] theorem State.discard_upc : s.discard.upc = s.upc := rfl
@[simp] theorem State.discard_err : s.discard.err = s.err := rfl
@[simp] theorem State.discard_pins : s.discard.pins = s.pins := rfl
@[simp] theorem State.discard_script : s.discard.script = s.script := rfl
@[simp] theorem State.discard_unit : s.discard.unit = s.unit := rfl
@[simp] theorem State.discard_bench : s.discard.bench = s.bench := rfl
@[simp] theorem State.discard_draws : s.discard.draws = s.draws := rfl

@[simp] theorem State.complete_params : s.complete.params = s.params := rfl
@[simp] theorem State.complete_st : s.complete.st = Grid.empty := rfl
@[simp] theorem State.complete_w : s.complete.w = List.replicate s.params.variant.nwords none := rfl
@[simp] theorem State.complete_rqCmd : s.complete.rqCmd = none := rfl
@[simp] theorem State.complete_rqKey : s.complete.rqKey = List.replicate s.params.variant.keyBytes none := rfl
@[simp] theorem State.complete_rqBlock : s.complete.rqBlock = Seq16.empty := rfl
@[simp] theorem State.complete_out : s.complete.out = s.out := rfl
@[simp] theorem State.complete_mode : s.complete.mode = .done := rfl
@[simp] theorem State.complete_upc : s.complete.upc = 0 := rfl
@[simp] theorem State.complete_err : s.complete.err = s.err := rfl
@[simp] theorem State.complete_pins : s.complete.pins = s.pins := rfl
@[simp] theorem State.complete_script : s.complete.script = s.script := rfl
@[simp] theorem State.complete_unit : s.complete.unit = s.unit := rfl
@[simp] theorem State.complete_bench : s.complete.bench = s.bench := rfl
@[simp] theorem State.complete_draws : s.complete.draws = s.draws := rfl

@[simp] theorem State.resetRegs_params : s.resetRegs.params = s.params := rfl
@[simp] theorem State.resetRegs_st : s.resetRegs.st = Grid.empty := rfl
@[simp] theorem State.resetRegs_w : s.resetRegs.w = List.replicate s.params.variant.nwords none := rfl
@[simp] theorem State.resetRegs_rqCmd : s.resetRegs.rqCmd = none := rfl
@[simp] theorem State.resetRegs_rqKey : s.resetRegs.rqKey = List.replicate s.params.variant.keyBytes none := rfl
@[simp] theorem State.resetRegs_rqBlock : s.resetRegs.rqBlock = Seq16.empty := rfl
@[simp] theorem State.resetRegs_out : s.resetRegs.out = Seq16.empty := rfl
@[simp] theorem State.resetRegs_mode : s.resetRegs.mode = .idle := rfl
@[simp] theorem State.resetRegs_upc : s.resetRegs.upc = 0 := rfl
@[simp] theorem State.resetRegs_err : s.resetRegs.err = none := rfl
@[simp] theorem State.resetRegs_pins : s.resetRegs.pins = s.pins := rfl
@[simp] theorem State.resetRegs_script : s.resetRegs.script = s.script := rfl
@[simp] theorem State.resetRegs_unit : s.resetRegs.unit = s.unit := rfl
@[simp] theorem State.resetRegs_bench : s.resetRegs.bench = s.bench := rfl
@[simp] theorem State.resetRegs_draws : s.resetRegs.draws = s.draws := rfl

@[simp] theorem State.tick_params : s.tick.params = s.params := rfl
@[simp] theorem State.tick_st : s.tick.st = s.st := rfl
@[simp] theorem State.tick_w : s.tick.w = s.w := rfl
@[simp] theorem State.tick_rqCmd : s.tick.rqCmd = s.rqCmd := rfl
@[simp] theorem State.tick_rqKey : s.tick.rqKey = s.rqKey := rfl
@[simp] theorem State.tick_rqBlock : s.tick.rqBlock = s.rqBlock := rfl
@[simp] theorem State.tick_out : s.tick.out = s.out := rfl
@[simp] theorem State.tick_mode : s.tick.mode = s.mode := rfl
@[simp] theorem State.tick_upc : s.tick.upc = s.upc := rfl
@[simp] theorem State.tick_err : s.tick.err = s.err := rfl
@[simp] theorem State.tick_pins : s.tick.pins = s.script.headD s.pins := rfl
@[simp] theorem State.tick_script : s.tick.script = s.script.tail := rfl
@[simp] theorem State.tick_unit : s.tick.unit = s.unit := rfl
@[simp] theorem State.tick_bench : s.tick.bench = none := rfl
@[simp] theorem State.tick_draws : s.tick.draws = s.draws + 1 := rfl

end Sys2Proof.Machine
end

