-- ==== Sys2Proof/Laws/Ops.lean ====
section
/-! SUPPORT. One lemma for each shared operation that says what it can do: the shapes (a four, a grid, a sixteen), the reads, the accept step,
the advance, the event of a step, and the step itself. -/

namespace Sys2Proof

/-! ### Shapes -/

section Shapes

variable {α β : Type}

@[simp] theorem Quad.get_ofFn (f : Fin 4 → α) (i : Fin 4) : (Quad.ofFn f).get i = f i := by
  match i with
  | 0 | 1 | 2 | 3 => rfl

@[simp] theorem Quad.get_map (f : α → β) (q : Quad α) (i : Fin 4) : (q.map f).get i = f (q.get i) := by
  match i with
  | 0 | 1 | 2 | 3 => rfl

theorem Quad.ext_get {p q : Quad α} (h : ∀ i, p.get i = q.get i) : p = q :=
  Quad.ext (h 0) (h 1) (h 2) (h 3)

@[simp] theorem Quad.all?_map_some (q : Quad α) : (q.map some).all? = some q := rfl

@[simp] theorem Grid.cell_ofFn (f : Fin 4 → Fin 4 → α) (r c : Fin 4) : (Grid.ofFn f).cell r c = f r c := by
  simp [Grid.cell, Grid.ofFn]

@[simp] theorem Grid.cell_map (f : α → β) (g : Grid α) (r c : Fin 4) : (g.map f).cell r c = f (g.cell r c) := by
  simp [Grid.cell, Grid.map]

theorem Grid.ext_cell {g h : Grid α} (e : ∀ r c, g.cell r c = h.cell r c) : g = h :=
  Grid.ext (Quad.ext_get fun r => Quad.ext_get fun c => e r c)

@[simp] theorem Grid.all?_map_some (g : Grid α) : (g.map some).all? = some g := rfl

@[simp] theorem Grid.all?_empty : (Grid.empty : Grid (Option α)).all? = none := rfl

@[simp] theorem Seq16.get_ofFn (f : Fin 16 → α) (i : Fin 16) : (Seq16.ofFn f).get i = f i := by
  simp only [Seq16.get, Seq16.ofFn, Quad.get_ofFn]
  congr 1
  ext
  simp only
  omega

@[simp] theorem Seq16.get_map (f : α → β) (b : Seq16 α) (i : Fin 16) : (b.map f).get i = f (b.get i) := by
  simp [Seq16.get, Seq16.map]

theorem Seq16.ext_get {a b : Seq16 α} (e : ∀ i, a.get i = b.get i) : a = b := by
  refine Seq16.ext (Quad.ext_get fun q => Quad.ext_get fun p => ?_)
  have h := e ⟨4 * q.val + p.val, by omega⟩
  have hq : (⟨(4 * q.val + p.val) / 4, by omega⟩ : Fin 4) = q := by ext; simp only; omega
  have hp : (⟨(4 * q.val + p.val) % 4, by omega⟩ : Fin 4) = p := by ext; simp only; omega
  simpa only [Seq16.get, hq, hp] using h

@[simp] theorem Seq16.all?_map_some (b : Seq16 α) : (b.map some).all? = some b := rfl

@[simp] theorem Seq16.all?_empty : (Seq16.empty : Seq16 (Option α)).all? = none := rfl

@[simp] theorem allSome_map_some (l : List α) : allSome (l.map some) = some l := by
  induction l with
  | nil => rfl
  | cons a l ih => simp [allSome, ih]

/-- A list of places all of which hold a value is the list of those values. -/
theorem allSome_eq_some {l : List (Option α)} {as : List α} : allSome l = some as ↔ l = as.map some := by
  constructor
  · intro h
    induction l generalizing as with
    | nil => simp_all [allSome]
    | cons x l ih =>
      cases x with
      | none => simp [allSome] at h
      | some a =>
        simp only [allSome, Option.map_eq_some_iff] at h
        obtain ⟨as', h1, rfl⟩ := h
        simp [ih h1]
  · rintro rfl
    exact allSome_map_some as

theorem Quad.all?_eq_some {q : Quad (Option α)} {v : Quad α} : q.all? = some v ↔ q = v.map some := by
  constructor
  · intro h
    unfold Quad.all? at h
    split at h
    · next e0 e1 e2 e3 =>
      obtain rfl := Option.some.inj h
      exact Quad.ext e0 e1 e2 e3
    · cases h
  · rintro rfl
    rfl

theorem Grid.all?_eq_some {g : Grid (Option α)} {m : Grid α} : g.all? = some m ↔ g = m.map some := by
  constructor
  · intro h
    simp only [Grid.all?, Option.map_eq_some_iff] at h
    obtain ⟨rs, h1, rfl⟩ := h
    have h2 := Quad.all?_eq_some.mp h1
    refine Grid.ext (Quad.ext_get fun r => ?_)
    have h3 := congrArg (fun q => q.get r) h2
    simp only [Quad.get_map] at h3
    simpa [Grid.map] using Quad.all?_eq_some.mp h3
  · rintro rfl
    rfl

theorem Seq16.all?_eq_some {b : Seq16 (Option α)} {v : Seq16 α} : b.all? = some v ↔ b = v.map some := by
  constructor
  · intro h
    simp only [Seq16.all?, Option.map_eq_some_iff] at h
    obtain ⟨gs, h1, rfl⟩ := h
    have h2 := Quad.all?_eq_some.mp h1
    refine Seq16.ext (Quad.ext_get fun r => ?_)
    have h3 := congrArg (fun q => q.get r) h2
    simp only [Quad.get_map] at h3
    simpa [Seq16.map] using Quad.all?_eq_some.mp h3
  · rintro rfl
    rfl

end Shapes

namespace Machine

/-! ### Reads -/

@[simp] theorem reading_ok {α : Type} (a : α) (k : α → Host.Outcome State Fault Refusal) : reading (.ok a) k = k a := rfl

@[simp] theorem reading_error {α : Type} (f : Fault) (k : α → Host.Outcome State Fault Refusal) :
    reading (.error f) k = .fault f := rfl

/-- A meaning that reads and answers a next state has read a value. -/
theorem reading_next {α : Type} {r : Except Fault α} {k : α → Host.Outcome State Fault Refusal} {t : State}
    (h : reading r k = .next t) : ∃ a, r = .ok a ∧ k a = .next t := by
  cases r with
  | ok a => exact ⟨a, rfl, h⟩
  | error f => cases h

theorem readSt_ok {s : State} {m : Grid Byte} : s.readSt = .ok m ↔ s.st = m.map some := by
  rw [← Grid.all?_eq_some]
  unfold State.readSt readAll
  split <;> simp_all

theorem readSt_error {s : State} {f : Fault} : s.readSt = .error f ↔ s.st.all? = none ∧ f = .readNone .st := by
  unfold State.readSt readAll
  cases s.st.all? <;> simp [eq_comm]

theorem readRqBlock_ok {s : State} {b : Seq16 Byte} : s.readRqBlock = .ok b ↔ s.rqBlock = b.map some := by
  rw [← Seq16.all?_eq_some]
  unfold State.readRqBlock readAll
  split <;> simp_all

theorem readOut_ok {s : State} {b : Seq16 Byte} : s.readOut = .ok b ↔ s.out = b.map some := by
  rw [← Seq16.all?_eq_some]
  unfold State.readOut readAll
  split <;> simp_all

theorem readOut_error {s : State} {f : Fault} : s.readOut = .error f ↔ s.out.all? = none ∧ f = .readNone .out := by
  unfold State.readOut readAll
  cases s.out.all? <;> simp [eq_comm]

theorem readRqKey_ok {s : State} {key : List Byte} :
    s.readRqKey = .ok key ↔ s.rqKey = key.map some ∧ key.length = s.params.variant.keyBytes := by
  unfold State.readRqKey readAll
  constructor
  · intro h
    split at h
    · next hl =>
      split at h
      · next v e =>
        obtain rfl := Except.ok.inj h
        have e2 := allSome_eq_some.mp e
        exact ⟨e2, by simpa [e2] using hl⟩
      · cases h
    · cases h
  · rintro ⟨h, hl⟩
    simp [h, hl]

theorem readRqCmd_ok {s : State} {c : BitVec 1} : s.readRqCmd = .ok c ↔ s.rqCmd = some c := by
  unfold State.readRqCmd readAll
  split <;> simp_all

theorem readW_ok {s : State} {i : Nat} {x : Word} : s.readW i = .ok x ↔ s.w[i]? = some (some x) := by
  unfold State.readW
  split <;> simp_all

theorem readRoundKey_ok {s : State} {rnd : Nat} {k : Quad Word} :
    s.readRoundKey rnd = .ok k ↔ ∀ c : Fin 4, s.w[nb * rnd + c.val]? = some (some (k.get c)) := by
  have hall : (∀ c : Fin 4, s.w[nb * rnd + c.val]? = some (some (k.get c))) ↔
      s.readW (nb * rnd) = .ok k.x0 ∧ s.readW (nb * rnd + 1) = .ok k.x1 ∧
        s.readW (nb * rnd + 2) = .ok k.x2 ∧ s.readW (nb * rnd + 3) = .ok k.x3 := by
    simp only [readW_ok]
    constructor
    · exact fun h => ⟨h 0, h 1, h 2, h 3⟩
    · rintro ⟨h0, h1, h2, h3⟩ c
      match c with
      | 0 => exact h0
      | 1 => exact h1
      | 2 => exact h2
      | 3 => exact h3
  rw [hall]
  unfold State.readRoundKey
  cases s.readW (nb * rnd) <;> cases s.readW (nb * rnd + 1) <;> cases s.readW (nb * rnd + 2) <;>
    cases s.readW (nb * rnd + 3) <;> simp [Quad.ext_iff]

/-! ### The shared operations -/

@[simp] theorem onNext_next (f : State → State) (s : State) : onNext f (.next s) = .next (f s) := rfl

/-- What stands around an instruction never turns a stop into a next state. -/
theorem onNext_eq_next {f : State → State} {o : Host.Outcome State Fault Refusal} {t : State} (h : onNext f o = .next t) :
    ∃ u, o = .next u ∧ t = f u := by
  cases o with
  | next u => exact ⟨u, rfl, (Host.Outcome.next.inj h).symm⟩
  | fault r => cases h
  | refused r => cases h

/-- The status output `ready` says that no operation runs. -/
theorem ready_iff (s : State) : s.ready = true ↔ s.mode ≠ .run := by
  unfold State.ready
  cases s.mode <;> simp

theorem done_iff (s : State) : s.done = true ↔ s.mode = .done := by
  unfold State.done
  cases s.mode <;> simp

/-- In DONE the port `block_out` is the read of `OUT`. -/
theorem blockOut_done {s : State} (h : s.mode = .done) : s.blockOut = s.readOut.map packBlock := by
  unfold State.blockOut
  rw [(done_iff s).mpr h]

/-- Outside DONE the level on `block_out` is the free value, whatever `OUT` holds. -/
theorem blockOut_not_done {s : State} (h : s.mode ≠ .done) : s.blockOut = .ok (Config.freeBlockOut s.draws) := by
  unfold State.blockOut
  cases e : s.done with
  | true => exact absurd ((done_iff s).mp e) h
  | false => rfl

/-- The accept step: nothing while an operation runs, else an error taken or the request latched. -/
theorem accept_cases (s : State) (cmd : BitVec 1) :
    (s.mode = .run ∧ s.accept cmd = s) ∨
      (s.mode ≠ .run ∧
        ((∃ e, lengthError s.params.variant s.pins.keyLen.toNat s.pins.blockLen.toNat = some e ∧
            s.accept cmd = s.raise e) ∨
          (lengthError s.params.variant s.pins.keyLen.toNat s.pins.blockLen.toNat = none ∧
            s.accept cmd = s.startRun cmd))) := by
  by_cases h : s.mode = .run
  · exact .inl ⟨h, by simp [State.accept, State.ready, h]⟩
  · refine .inr ⟨h, ?_⟩
    have hr := (ready_iff s).mpr h
    unfold State.accept
    rw [if_pos hr]
    split
    · next e he => exact .inl ⟨e, he, rfl⟩
    · next he => exact .inr ⟨he, rfl⟩

theorem lengthError_eq_none {v : Variant} {k b : Nat} : lengthError v k b = none ↔ k = v.keyBytes ∧ b = 16 := by
  unfold lengthError
  split
  · next h => simp [h]
  · split <;> simp_all

/-- The advance: the next index, or the completion. -/
theorem advance_cases (s : State) :
    (s.upc.toNat < s.params.variant.uplen - 1 ∧ s.advance = { s with upc := s.upc + 1 }) ∨
      (¬ s.upc.toNat < s.params.variant.uplen - 1 ∧ s.advance = s.complete) := by
  unfold State.advance
  split
  · exact .inl ⟨‹_›, rfl⟩
  · exact .inr ⟨‹_›, rfl⟩

/-! ### The step -/

/-- Which event a step is, in the order of priority. -/
theorem event_reset {s : State} (h : s.pins.rst = true) : s.event = .reset := by
  simp [State.event, h]

theorem event_bench {s : State} {x : EncWord} (h : s.pins.rst = false) (hb : s.bench = some x) :
    s.event = benchEvent s.params.variant x := by
  simp [State.event, h, hb]

theorem event_run {s : State} (h : s.pins.rst = false) (hb : s.bench = none) (hm : s.mode = .run) :
    s.event = s.microEvent := by
  simp [State.event, h, hb, hm]

theorem event_ready {s : State} (h : s.pins.rst = false) (hb : s.bench = none) (hm : s.mode ≠ .run) :
    s.event = if s.pins.req then .command (decodeCmd s.pins.cmd) else .idle := by
  unfold State.event
  rw [h, hb]
  cases e : s.mode <;> simp_all

/-- What a micro event says of the fetch. -/
theorem microEvent_micro {s : State} {i : Instr} (h : s.microEvent = .micro i) :
    ∃ cmd u, s.rqCmd = some cmd ∧ (program s.params.variant cmd)[s.upc.toNat]? = some u ∧
      decodeUop s.params.variant u = .ok i := by
  unfold State.microEvent State.fetchUop at h
  cases hc : s.readRqCmd with
  | error f => simp [hc] at h
  | ok cmd =>
    simp only [hc] at h
    cases hu : (program s.params.variant cmd)[s.upc.toNat]? with
    | none => simp [hu] at h
    | some u =>
      simp only [hu] at h
      cases hd : decodeUop s.params.variant u with
      | error why => simp [hd] at h
      | ok j =>
        simp only [hd, Event.micro.injEq] at h
        exact ⟨cmd, u, readRqCmd_ok.mp hc, hu, by rw [hd, h]⟩

/-- Everything a step can do when it answers a next state: the reset, nothing, a command, a micro step, or a function unit. -/
theorem step_cases {s t : State} (h : step s = .next t) :
    (s.event = .reset ∧ t = s.resetStep) ∨ (s.event = .idle ∧ t = s.tick) ∨
      (∃ i u, s.event = .command i ∧ exec i s = .next u ∧ t = u.tick) ∨
      (∃ i u, s.event = .micro i ∧ exec i s = .next u ∧ t = u.endMicro) ∨
      (∃ i u, s.event = .unit i ∧ exec i s = .next u ∧ t = u.tick) := by
  unfold step at h
  split at h
  · next e => exact .inl ⟨e, (Host.Outcome.next.inj h).symm⟩
  · next e => exact .inr (.inl ⟨e, (Host.Outcome.next.inj h).symm⟩)
  · next i e =>
    obtain ⟨u, h1, h2⟩ := onNext_eq_next h
    exact .inr (.inr (.inl ⟨i, u, e, h1, h2⟩))
  · next i e =>
    obtain ⟨u, h1, h2⟩ := onNext_eq_next h
    exact .inr (.inr (.inr (.inl ⟨i, u, e, h1, h2⟩)))
  · next i e =>
    obtain ⟨u, h1, h2⟩ := onNext_eq_next h
    exact .inr (.inr (.inr (.inr ⟨i, u, e, h1, h2⟩)))
  · cases h
  · cases h

end Machine

end Sys2Proof
end

