-- ==== Sys2Proof/Laws/Exec.lean ====
section
/-! SUPPORT. What each meaning can answer, said once: a next state exactly when the registers it reads hold values, and which one. -/

namespace Sys2Proof.Machine

/-- A meaning that reads `ST` and goes on: it answers next exactly if `ST` holds sixteen bytes. -/
theorem reading_st_next {s t : State} {k : Grid Byte → State} :
    (reading s.readSt fun m => .next (k m)) = .next t ↔ ∃ m : Grid Byte, s.st = m.map some ∧ t = k m := by
  constructor
  · intro h
    obtain ⟨m, h1, h2⟩ := reading_next h
    exact ⟨m, readSt_ok.mp h1, (Host.Outcome.next.inj h2).symm⟩
  · rintro ⟨m, h1, rfl⟩
    rw [readSt_ok.mpr h1]
    rfl

theorem exec_subbytes_next {s t : State} :
    exec .subbytes s = .next t ↔ ∃ m : Grid Byte, s.st = m.map some ∧ t = s.writeSt (subBytes s.params.sbox m) :=
  reading_st_next

theorem exec_shiftrows_next {s t : State} :
    exec .shiftrows s = .next t ↔ ∃ m : Grid Byte, s.st = m.map some ∧ t = s.writeSt (shiftRows m) :=
  reading_st_next

theorem exec_mixcolumns_next {s t : State} :
    exec .mixcolumns s = .next t ↔ ∃ m : Grid Byte, s.st = m.map some ∧ t = s.writeSt (mixColumns m) :=
  reading_st_next

theorem exec_invsubbytes_next {s t : State} :
    exec .invsubbytes s = .next t ↔ ∃ m : Grid Byte, s.st = m.map some ∧ t = s.writeSt (invSubBytes s.params.sbox m) :=
  reading_st_next

theorem exec_invshiftrows_next {s t : State} :
    exec .invshiftrows s = .next t ↔ ∃ m : Grid Byte, s.st = m.map some ∧ t = s.writeSt (invShiftRows m) :=
  reading_st_next

theorem exec_invmixcolumns_next {s t : State} :
    exec .invmixcolumns s = .next t ↔ ∃ m : Grid Byte, s.st = m.map some ∧ t = s.writeSt (invMixColumns m) :=
  reading_st_next

theorem exec_storeblock_next {s t : State} :
    exec .storeblock s = .next t ↔ ∃ m : Grid Byte, s.st = m.map some ∧ t = s.writeOut (storeBlock m) :=
  reading_st_next

theorem exec_loadblock_next {s t : State} :
    exec .loadblock s = .next t ↔ ∃ b : Seq16 Byte, s.rqBlock = b.map some ∧ t = s.writeSt (loadBlock b) := by
  constructor
  · intro h
    obtain ⟨b, h1, h2⟩ := reading_next h
    exact ⟨b, readRqBlock_ok.mp h1, (Host.Outcome.next.inj h2).symm⟩
  · rintro ⟨b, h1, rfl⟩
    change execLoadblock s = _
    rw [execLoadblock, readRqBlock_ok.mpr h1]
    rfl

theorem exec_keyexpand_next {s t : State} :
    exec .keyexpand s = .next t ↔ ∃ key : List Byte,
      s.rqKey = key.map some ∧ key.length = s.params.variant.keyBytes ∧
      t = s.writeW (keyExpand s.params.variant s.params.sbox key) := by
  constructor
  · intro h
    obtain ⟨key, h1, h2⟩ := reading_next h
    obtain ⟨h3, h4⟩ := readRqKey_ok.mp h1
    exact ⟨key, h3, h4, (Host.Outcome.next.inj h2).symm⟩
  · rintro ⟨key, h1, h2, rfl⟩
    change execKeyexpand s = _
    rw [execKeyexpand, readRqKey_ok.mpr ⟨h1, h2⟩]
    rfl

theorem exec_addroundkey_next {s t : State} {rnd : BitVec 4} :
    exec (.addroundkey rnd) s = .next t ↔ rnd.toNat ≤ s.params.variant.nr ∧ ∃ (m : Grid Byte) (k : Quad Word),
      s.st = m.map some ∧ (∀ c : Fin 4, s.w[nb * rnd.toNat + c.val]? = some (some (k.get c))) ∧
      t = s.writeSt (addRoundKey k m) := by
  change execAddroundkey rnd s = .next t ↔ _
  unfold execAddroundkey
  split
  · next hr =>
    constructor
    · intro h
      obtain ⟨m, h1, h2⟩ := reading_next h
      obtain ⟨k, h3, h4⟩ := reading_next h2
      exact ⟨hr, m, k, readSt_ok.mp h1, readRoundKey_ok.mp h3, (Host.Outcome.next.inj h4).symm⟩
    · rintro ⟨_, m, k, h1, h2, rfl⟩
      rw [readSt_ok.mpr h1, readRoundKey_ok.mpr h2]
      rfl
  · next hr => simp [hr]

/-- The instructions that a UOP word can name. -/
def IsMicro : Instr → Prop
  | .loadblock | .keyexpand | .addroundkey _ | .subbytes | .shiftrows | .mixcolumns | .invsubbytes | .invshiftrows
  | .invmixcolumns | .storeblock => True
  | .encode | .decode | .xtime | .gfmult | .mul02 | .mul03 | .mul09 | .mul0b | .mul0d | .mul0e | .rcon | .subbyte
  | .invsubbyte | .subword | .rotword => False

/-- A micro-operation writes `ST`, `W` or `OUT` and nothing else. -/
theorem exec_micro_frame {s t : State} {i : Instr} (hi : IsMicro i) (h : exec i s = .next t) :
    t = { s with st := t.st, w := t.w, out := t.out } := by
  cases i with
  | loadblock => obtain ⟨_, _, rfl⟩ := exec_loadblock_next.mp h; rfl
  | keyexpand => obtain ⟨_, _, _, rfl⟩ := exec_keyexpand_next.mp h; rfl
  | addroundkey rnd => obtain ⟨_, _, _, _, _, rfl⟩ := exec_addroundkey_next.mp h; rfl
  | subbytes => obtain ⟨_, _, rfl⟩ := exec_subbytes_next.mp h; rfl
  | shiftrows => obtain ⟨_, _, rfl⟩ := exec_shiftrows_next.mp h; rfl
  | mixcolumns => obtain ⟨_, _, rfl⟩ := exec_mixcolumns_next.mp h; rfl
  | invsubbytes => obtain ⟨_, _, rfl⟩ := exec_invsubbytes_next.mp h; rfl
  | invshiftrows => obtain ⟨_, _, rfl⟩ := exec_invshiftrows_next.mp h; rfl
  | invmixcolumns => obtain ⟨_, _, rfl⟩ := exec_invmixcolumns_next.mp h; rfl
  | storeblock => obtain ⟨_, _, rfl⟩ := exec_storeblock_next.mp h; rfl
  | encode | decode | xtime | gfmult | mul02 | mul03 | mul09 | mul0b | mul0d | mul0e | rcon | subbyte | invsubbyte | subword
  | rotword => exact hi.elim

/-- A UOP word names a micro-operation. -/
theorem decodeUop_isMicro {v : Variant} {u : BitVec 8} {i : Instr} (h : decodeUop v u = .ok i) : IsMicro i := by
  unfold decodeUop at h
  simp only at h
  split at h
  · split at h
    · cases h; trivial
    · cases h
  · split at h
    · cases h
    · next j hj =>
      split at h
      · cases h
        unfold plainUop at hj
        split at hj <;> first | (cases hj; trivial) | cases hj
      · cases h

/-- A function unit writes the result wire and nothing else. -/
theorem exec_func_frame {s t : State} {f : BitVec 4} {i : Instr} (hd : decodeFunc f = .ok i) (h : exec i s = .next t) :
    ∃ r, t = s.writeResult r := by
  unfold decodeFunc at hd
  split at hd
  case h_9 =>
    cases hd
    change execRcon s = _ at h
    unfold execRcon at h
    split at h
    · cases h; exact ⟨_, rfl⟩
    · cases h
  case h_14 => cases hd
  all_goals
    cases hd
    cases h
    exact ⟨_, rfl⟩

end Sys2Proof.Machine
end

