-- ==== Sys2Proof/Laws/Event.lean ====
section
/-! SUPPORT. What an event says of the state that calls for it, and what a command or a whole key schedule is. -/

namespace Sys2Proof.Machine

/-- The event of a word on the bench is a function unit's, or a stop. -/
theorem benchEvent_cases (v : Variant) (x : EncWord) :
    (∃ f i, x = .func f ∧ decodeFunc f = .ok i ∧ benchEvent v x = .unit i) ∨ ∃ r, benchEvent v x = .refuse r := by
  unfold benchEvent
  cases hd : decode v x with
  | error why => exact .inr ⟨_, rfl⟩
  | ok i =>
    cases x with
    | func f => exact .inl ⟨f, i, rfl, hd, rfl⟩
    | cmd c => exact .inr ⟨_, rfl⟩
    | uop u => exact .inr ⟨_, rfl⟩

/-- The event of a RUN state is a micro step's, or a stop. -/
theorem microEvent_cases (s : State) :
    (∃ i, s.microEvent = .micro i) ∨ (∃ f, s.microEvent = .fault f) ∨ ∃ r, s.microEvent = .refuse r := by
  unfold State.microEvent
  cases s.fetchUop with
  | error f => exact .inr (.inl ⟨f, rfl⟩)
  | ok u =>
    cases hd : decodeUop s.params.variant u with
    | ok i => exact .inl ⟨i, by simp only [hd]⟩
    | error why => exact .inr (.inr ⟨.reservedWord why, by simp only [hd]⟩)

/-- Everything an event can be: the reset; the bench's; the micro step's; a command where one is presented; nothing. -/
theorem event_cases (s : State) :
    (s.pins.rst = true ∧ s.event = .reset) ∨
      (s.pins.rst = false ∧
        ((∃ x, s.bench = some x ∧ s.event = benchEvent s.params.variant x) ∨
          (s.bench = none ∧ s.mode = .run ∧ s.event = s.microEvent) ∨
          (s.bench = none ∧ s.mode ≠ .run ∧ s.pins.req = true ∧ s.event = .command (decodeCmd s.pins.cmd)) ∨
          (s.bench = none ∧ s.mode ≠ .run ∧ s.pins.req = false ∧ s.event = .idle))) := by
  cases hr : s.pins.rst with
  | true => exact .inl ⟨rfl, event_reset hr⟩
  | false =>
    refine .inr ⟨rfl, ?_⟩
    cases hb : s.bench with
    | some x => exact .inl ⟨x, rfl, event_bench hr hb⟩
    | none =>
      by_cases hm : s.mode = .run
      · exact .inr (.inl ⟨rfl, hm, event_run hr hb hm⟩)
      · cases hq : s.pins.req with
        | true => exact .inr (.inr (.inl ⟨rfl, hm, rfl, by rw [event_ready hr hb hm, hq]; rfl⟩))
        | false => exact .inr (.inr (.inr ⟨rfl, hm, rfl, by rw [event_ready hr hb hm, hq]; rfl⟩))

theorem event_eq_reset {s : State} (h : s.event = .reset) : s.pins.rst = true := by
  rcases event_cases s with ⟨hr, _⟩ | ⟨_, ⟨x, _, e⟩ | ⟨_, _, e⟩ | ⟨_, _, _, e⟩ | ⟨_, _, _, e⟩⟩
  · exact hr
  · rcases benchEvent_cases s.params.variant x with ⟨_, _, _, _, e'⟩ | ⟨_, e'⟩ <;> simp [e, e'] at h
  · rcases microEvent_cases s with ⟨_, e'⟩ | ⟨_, e'⟩ | ⟨_, e'⟩ <;> simp [e, e'] at h
  all_goals simp [e] at h

theorem event_eq_idle {s : State} (h : s.event = .idle) :
    s.pins.rst = false ∧ s.bench = none ∧ s.mode ≠ .run ∧ s.pins.req = false := by
  rcases event_cases s with ⟨_, e⟩ | ⟨hr, ⟨x, _, e⟩ | ⟨_, _, e⟩ | ⟨_, _, _, e⟩ | ⟨hb, hm, hq, e⟩⟩
  · simp [e] at h
  · rcases benchEvent_cases s.params.variant x with ⟨_, _, _, _, e'⟩ | ⟨_, e'⟩ <;> simp [e, e'] at h
  · rcases microEvent_cases s with ⟨_, e'⟩ | ⟨_, e'⟩ | ⟨_, e'⟩ <;> simp [e, e'] at h
  · simp [e] at h
  · exact ⟨hr, hb, hm, hq⟩

theorem event_eq_command {s : State} {i : Instr} (h : s.event = .command i) :
    s.pins.rst = false ∧ s.bench = none ∧ s.mode ≠ .run ∧ s.pins.req = true ∧ i = decodeCmd s.pins.cmd := by
  rcases event_cases s with ⟨_, e⟩ | ⟨hr, ⟨x, _, e⟩ | ⟨_, _, e⟩ | ⟨hb, hm, hq, e⟩ | ⟨_, _, _, e⟩⟩
  · simp [e] at h
  · rcases benchEvent_cases s.params.variant x with ⟨_, _, _, _, e'⟩ | ⟨_, e'⟩ <;> simp [e, e'] at h
  · rcases microEvent_cases s with ⟨_, e'⟩ | ⟨_, e'⟩ | ⟨_, e'⟩ <;> simp [e, e'] at h
  · simp only [e, Event.command.injEq] at h
    exact ⟨hr, hb, hm, hq, h.symm⟩
  · simp [e] at h

theorem event_eq_micro {s : State} {i : Instr} (h : s.event = .micro i) :
    s.pins.rst = false ∧ s.bench = none ∧ s.mode = .run ∧ s.microEvent = .micro i := by
  rcases event_cases s with ⟨_, e⟩ | ⟨hr, ⟨x, _, e⟩ | ⟨hb, hm, e⟩ | ⟨_, _, _, e⟩ | ⟨_, _, _, e⟩⟩
  · simp [e] at h
  · rcases benchEvent_cases s.params.variant x with ⟨_, _, _, _, e'⟩ | ⟨_, e'⟩ <;> simp [e, e'] at h
  · exact ⟨hr, hb, hm, e ▸ h⟩
  all_goals simp [e] at h

theorem event_eq_unit {s : State} {i : Instr} (h : s.event = .unit i) :
    s.pins.rst = false ∧ ∃ f, s.bench = some (.func f) ∧ decodeFunc f = .ok i := by
  rcases event_cases s with ⟨_, e⟩ | ⟨hr, ⟨x, hb, e⟩ | ⟨_, _, e⟩ | ⟨_, _, _, e⟩ | ⟨_, _, _, e⟩⟩
  · simp [e] at h
  · rcases benchEvent_cases s.params.variant x with ⟨f, j, hx, hd, e'⟩ | ⟨_, e'⟩
    · simp only [e, e', Event.unit.injEq] at h
      exact ⟨hr, f, hx ▸ hb, h ▸ hd⟩
    · simp [e, e'] at h
  · rcases microEvent_cases s with ⟨_, e'⟩ | ⟨_, e'⟩ | ⟨_, e'⟩ <;> simp [e, e'] at h
  all_goals simp [e] at h

/-- The presented command is the accept step, with the command word of the port. -/
theorem exec_decodeCmd (c : BitVec 1) (s : State) : exec (decodeCmd c) s = .next (s.accept c) := by
  have h : c = 0 ∨ c = 1 := by
    revert c
    decide
  rcases h with rfl | rfl <;> rfl

/-- The words of a schedule are the loaded ones and those to go. -/
theorem length_expandFrom (v : Variant) (t : SubstTable) (n : Nat) (ws : List Word) (h : v.nk ≤ ws.length) :
    (expandFrom v t n ws h).length = ws.length + n := by
  induction n generalizing ws with
  | zero => rfl
  | succ n ih => rw [expandFrom, ih, List.length_append, List.length_singleton]; omega

/-- A schedule has NWORDS words (R8, R120). -/
@[simp] theorem length_keyExpand (v : Variant) (t : SubstTable) (key : List Byte) :
    (keyExpand v t key).length = v.nwords := by
  rw [keyExpand, length_expandFrom, length_loadKey]
  cases v <;> rfl

end Sys2Proof.Machine
end

