-- ==== Sys2Proof/Laws/PerInstr.lean ====
section
/-! SUPPORT. The family RoundTrip: an instruction's word decodes to it on every core that has a word for it (spec R63 to R66), one lemma a
constructor. -/

namespace Sys2Proof.Laws.RoundTrip

/-- On a core of any variant for which the instruction is well-formed, decoding its word gives it back. -/
def Statement (i : Instr) : Prop := ∀ v : Variant, i.wf v = true → Sys2Proof.decode v (Sys2Proof.encode i) = .ok i

theorem encode : Statement .encode := fun _ _ => rfl

theorem decode : Statement .decode := fun _ _ => rfl

theorem loadblock : Statement .loadblock := fun _ _ => rfl

theorem keyexpand : Statement .keyexpand := fun _ _ => rfl

theorem addroundkey_opcode : ∀ rnd : BitVec 4, (0x2#4 ++ rnd).extractLsb' 4 4 = 0x2#4 := by decide

theorem addroundkey_operand : ∀ rnd : BitVec 4, (0x2#4 ++ rnd).extractLsb' 0 4 = rnd := by decide

theorem addroundkey (rnd : BitVec 4) : Statement (.addroundkey rnd) := by
  intro v h
  simp only [Instr.wf, decide_eq_true_eq] at h
  simp [Sys2Proof.encode, Sys2Proof.decode, decodeUop, addroundkey_opcode, addroundkey_operand, h]

theorem subbytes : Statement .subbytes := fun _ _ => rfl

theorem shiftrows : Statement .shiftrows := fun _ _ => rfl

theorem mixcolumns : Statement .mixcolumns := fun _ _ => rfl

theorem invsubbytes : Statement .invsubbytes := fun _ _ => rfl

theorem invshiftrows : Statement .invshiftrows := fun _ _ => rfl

theorem invmixcolumns : Statement .invmixcolumns := fun _ _ => rfl

theorem storeblock : Statement .storeblock := fun _ _ => rfl

theorem xtime : Statement .xtime := fun _ _ => rfl

theorem gfmult : Statement .gfmult := fun _ _ => rfl

theorem mul02 : Statement .mul02 := fun _ _ => rfl

theorem mul03 : Statement .mul03 := fun _ _ => rfl

theorem mul09 : Statement .mul09 := fun _ _ => rfl

theorem mul0b : Statement .mul0b := fun _ _ => rfl

theorem mul0d : Statement .mul0d := fun _ _ => rfl

theorem mul0e : Statement .mul0e := fun _ _ => rfl

theorem rcon : Statement .rcon := fun _ _ => rfl

theorem subbyte : Statement .subbyte := fun _ _ => rfl

theorem invsubbyte : Statement .invsubbyte := fun _ _ => rfl

theorem subword : Statement .subword := fun _ _ => rfl

theorem rotword : Statement .rotword := fun _ _ => rfl

end Sys2Proof.Laws.RoundTrip
end

