-- ==== Sys2Proof/Laws/Run.lean ====
section
/-! SUPPORT. Runs of the core, one step at a time. -/

namespace Sys2Proof.Machine

theorem core_run_zero (s : State) : Sys2Proof.core.run 0 s = .next s := rfl

/-- A run that begins with a step to `t` goes on from `t`. -/
theorem core_run_succ_of_next {n : Nat} {s t : State} (h : step s = .next t) :
    Sys2Proof.core.run (n + 1) s = Sys2Proof.core.run n t := by
  have h' : Sys2Proof.core.step s = .next t := h
  simp only [Host.Core.run, h']

/-- A run that reaches a next state after `n + 1` steps took a first step. -/
theorem core_run_succ_next {n : Nat} {s t : State} (h : Sys2Proof.core.run (n + 1) s = .next t) :
    ∃ u, step s = .next u ∧ Sys2Proof.core.run n u = .next t := by
  cases e : step s with
  | next u => exact ⟨u, rfl, by rw [← core_run_succ_of_next e]; exact h⟩
  | fault f =>
    have e' : Sys2Proof.core.step s = .fault f := e
    simp [Host.Core.run, e'] at h
  | refused r =>
    have e' : Sys2Proof.core.step s = .refused r := e
    simp [Host.Core.run, e'] at h

end Sys2Proof.Machine
end

