-- ==== Sys2Proof/Tests/Slice0.lean ====
section
/-! SUPPORT. Tests. Every expected value is taken from spec files 95 and 96 or from an encoding table of file 30, as each test says; then the
witnesses: states and operands that meet the hypotheses of the statements. -/

namespace Sys2Proof.Tests

open Sys2Proof Sys2Proof.Machine

/-! ### Small states -/

/-- A core just reset. -/
def idle (v : Variant) (t : SubstTable) : State := State.resetOf { variant := v, sbox := t }

/-- The matrix whose bytes in block order are those of `x` (R41, R45). -/
def matrix (x : BitVec 128) : Grid Byte := loadBlock (unpackBlock x)

/-- A core in RUN at index `k` of the program of `c`: the request, `ST` and `W` hold zeros. -/
def running (v : Variant) (c : BitVec 1) (k : BitVec 6) : State :=
  { idle v sboxId with
    mode := .run
    upc := k
    rqCmd := some c
    rqKey := List.replicate v.keyBytes (some 0)
    rqBlock := Seq16.ofFn fun _ => some 0
    st := if k = 0 then Grid.empty else Grid.ofFn fun _ _ => some 0
    w := if k.toNat ≤ 1 then List.replicate v.nwords none else List.replicate v.nwords (some 0) }

/-- A core that waits, with a request of these lengths on the ports. -/
def asked (v : Variant) (c : BitVec 1) (keyLen blockLen : BitVec 8) : State :=
  { idle v sboxId with pins := { Pins.low with req := true, cmd := c, keyLen := keyLen, blockLen := blockLen } }

/-- A core in RUN under the FIPS-197 table with the matrix of `x` in `ST`. -/
def fipsAt (x : BitVec 128) : State := { idle .aes128 sboxFips197 with st := (matrix x).map some }

/-- A core with the wires of the function units set. -/
def wired (t : SubstTable) (a b : Byte) (w : Word) (i : Nat) : State :=
  { idle .aes128 t with unit := { a := a, b := b, w := w, i := i, result := none } }

/-- The outcome is a next state of which `p` holds. -/
def nextSat (p : State → Bool) : Host.Outcome State Fault Refusal → Bool
  | .next t => p t
  | .fault _ => false
  | .refused _ => false

theorem exists_next {o : Host.Outcome State Fault Refusal} (p : State → Prop) [DecidablePred p]
    (h : nextSat (fun t => decide (p t)) o = true) : ∃ t, o = .next t ∧ p t := by
  cases o with
  | next t => exact ⟨t, rfl, of_decide_eq_true h⟩
  | fault f => cases h
  | refused r => cases h

/-- The sixteen bytes of `ST` after the outcome, in block order. -/
def stAfter : Host.Outcome State Fault Refusal → Option (BitVec 128)
  | .next t => t.st.all?.map fun m => packBlock (storeBlock m)
  | .fault _ => none
  | .refused _ => none

/-- The result wire after the outcome. -/
def wireAfter : Host.Outcome State Fault Refusal → Option UnitResult
  | .next t => t.unit.result
  | .fault _ => none
  | .refused _ => none

/-- The words of `W` after the outcome. -/
def wAfter : Host.Outcome State Fault Refusal → List (Option Word)
  | .next t => t.w
  | .fault _ => []
  | .refused _ => []

/-! ### Well-formedness: its one check, refused on each variant (R63, R66 c) -/

theorem test_wf_refuses_round_above_nr :
    Instr.wf .aes128 (.addroundkey 11) = false ∧ Instr.wf .aes192 (.addroundkey 13) = false ∧
      Instr.wf .aes256 (.addroundkey 15) = false := by decide

theorem test_wf_accepts_round_nr :
    Instr.wf .aes128 (.addroundkey 10) = true ∧ Instr.wf .aes192 (.addroundkey 12) = true ∧
      Instr.wf .aes256 (.addroundkey 14) = true := by decide

/-! ### Decoding: a word of each row, from the tables of file 30 -/

theorem test_decode_cmd :
    decode .aes128 (.cmd 0b0#1) = .ok .encode ∧ decode .aes128 (.cmd 0b1#1) = .ok .decode := by decide

theorem test_decode_uop :
    decode .aes128 (.uop 0b00000000#8) = .ok .loadblock ∧ decode .aes128 (.uop 0b00010000#8) = .ok .keyexpand ∧
    decode .aes128 (.uop 0b00100000#8) = .ok (.addroundkey 0) ∧ decode .aes128 (.uop 0b00100111#8) = .ok (.addroundkey 7) ∧
    decode .aes128 (.uop 0b00110000#8) = .ok .subbytes ∧ decode .aes128 (.uop 0b01000000#8) = .ok .shiftrows ∧
    decode .aes128 (.uop 0b01010000#8) = .ok .mixcolumns ∧ decode .aes128 (.uop 0b01100000#8) = .ok .invsubbytes ∧
    decode .aes128 (.uop 0b01110000#8) = .ok .invshiftrows ∧ decode .aes128 (.uop 0b10000000#8) = .ok .invmixcolumns ∧
    decode .aes128 (.uop 0b10010000#8) = .ok .storeblock := by decide

theorem test_decode_func :
    decode .aes128 (.func 0b0000#4) = .ok .xtime ∧ decode .aes128 (.func 0b0001#4) = .ok .gfmult ∧
    decode .aes128 (.func 0b0010#4) = .ok .mul02 ∧ decode .aes128 (.func 0b0011#4) = .ok .mul03 ∧
    decode .aes128 (.func 0b0100#4) = .ok .mul09 ∧ decode .aes128 (.func 0b0101#4) = .ok .mul0b ∧
    decode .aes128 (.func 0b0110#4) = .ok .mul0d ∧ decode .aes128 (.func 0b0111#4) = .ok .mul0e ∧
    decode .aes128 (.func 0b1000#4) = .ok .rcon ∧ decode .aes128 (.func 0b1001#4) = .ok .subbyte ∧
    decode .aes128 (.func 0b1010#4) = .ok .invsubbyte ∧ decode .aes128 (.func 0b1011#4) = .ok .subword ∧
    decode .aes128 (.func 0b1100#4) = .ok .rotword := by decide

/-- File 95, section 3.7: reserved words by variant. -/
theorem test_decode_reserved :
    decode .aes128 (.uop 0x2B) = .error (.roundAboveNr 0x2B) ∧ decode .aes192 (.uop 0x2C) = .ok (.addroundkey 12) ∧
    decode .aes192 (.uop 0x2D) = .error (.roundAboveNr 0x2D) ∧ decode .aes256 (.uop 0x2E) = .ok (.addroundkey 14) ∧
    decode .aes256 (.uop 0x2F) = .error (.roundAboveNr 0x2F) ∧ decode .aes128 (.uop 0x31) = .error (.operandNotZero 0x31) ∧
    decode .aes128 (.uop 0x9F) = .error (.operandNotZero 0x9F) ∧ decode .aes128 (.uop 0xA0) = .error (.reservedOpcode 0xA0) ∧
    decode .aes128 (.uop 0xFF) = .error (.reservedOpcode 0xFF) ∧ decode .aes128 (.func 0xD) = .error (.reservedFunc 0xD) ∧
    decode .aes128 (.func 0xF) = .error (.reservedFunc 0xF) := by decide

/-! ### The function units: file 95, sections 2.7, 2.8, 3.1 and the tables 2.1 to 2.6 -/

theorem test_xtime : wireAfter (exec .xtime (wired sboxId 0x57 0 0 1)) = some (.byte 0xAE) ∧
    wireAfter (exec .xtime (wired sboxId 0x80 0 0 1)) = some (.byte 0x1B) := by decide

theorem test_gfmult : wireAfter (exec .gfmult (wired sboxId 0x57 0x83 0 1)) = some (.byte 0xC1) ∧
    wireAfter (exec .gfmult (wired sboxId 0x53 0xCA 0 1)) = some (.byte 0x01) := by decide

theorem test_mul02 : wireAfter (exec .mul02 (wired sboxId 0xFF 0 0 1)) = some (.byte 0xE5) := by decide

theorem test_mul03 : wireAfter (exec .mul03 (wired sboxId 0x57 0 0 1)) = some (.byte 0xF9) := by decide

theorem test_mul09 : wireAfter (exec .mul09 (wired sboxId 0x57 0 0 1)) = some (.byte 0xD9) := by decide

theorem test_mul0b : wireAfter (exec .mul0b (wired sboxId 0x57 0 0 1)) = some (.byte 0x77) := by decide

theorem test_mul0d : wireAfter (exec .mul0d (wired sboxId 0x57 0 0 1)) = some (.byte 0x9E) := by decide

theorem test_mul0e : wireAfter (exec .mul0e (wired sboxId 0x57 0 0 1)) = some (.byte 0x67) := by decide

theorem test_rcon : wireAfter (exec .rcon (wired sboxId 0 0 0 9)) = some (.word 0x1B000000) ∧
    wireAfter (exec .rcon (wired sboxId 0 0 0 1)) = some (.word 0x01000000) := by decide

theorem test_subbyte : wireAfter (exec .subbyte (wired sboxFips197 0x53 0 0 1)) = some (.byte 0xED) := by decide +kernel

theorem test_invsubbyte : wireAfter (exec .invsubbyte (wired sboxFips197 0x52 0 0 1)) = some (.byte 0x48) ∧
    wireAfter (exec .invsubbyte (wired sboxAff7 0x63 0 0 1)) = some (.byte 0xA0) := by decide +kernel

theorem test_subword : wireAfter (exec .subword (wired sboxFips197 0 0 0xCF4F3C09 1)) = some (.word 0x8A84EB01) := by
  decide +kernel

theorem test_rotword : wireAfter (exec .rotword (wired sboxId 0 0 0x09CF4F3C 1)) = some (.word 0xCF4F3C09) := by decide

/-! ### The micro-operations -/

/-- File 95, section 3.2: the matrix, row by row. -/
theorem test_loadblock :
    nextSat (fun t => decide (t.st.all? = some
      { rows := { x0 := { x0 := 0x00, x1 := 0x44, x2 := 0x88, x3 := 0xCC }, x1 := { x0 := 0x11, x1 := 0x55, x2 := 0x99, x3 := 0xDD },
                  x2 := { x0 := 0x22, x1 := 0x66, x2 := 0xAA, x3 := 0xEE }, x3 := { x0 := 0x33, x1 := 0x77, x2 := 0xBB, x3 := 0xFF } } }))
      (exec .loadblock { idle .aes128 sboxId with
        rqBlock := (unpackBlock 0x00112233445566778899AABBCCDDEEFF#128).map some }) = true := by decide

/-- File 95, section 3.2. -/
theorem test_storeblock :
    nextSat (fun t => decide (t.out.all?.map packBlock = some 0x00112233445566778899AABBCCDDEEFF#128))
      (exec .storeblock { idle .aes128 sboxId with st :=
        { rows := { x0 := { x0 := some 0x00, x1 := some 0x44, x2 := some 0x88, x3 := some 0xCC }
                    x1 := { x0 := some 0x11, x1 := some 0x55, x2 := some 0x99, x3 := some 0xDD }
                    x2 := { x0 := some 0x22, x1 := some 0x66, x2 := some 0xAA, x3 := some 0xEE }
                    x3 := { x0 := some 0x33, x1 := some 0x77, x2 := some 0xBB, x3 := some 0xFF } } } }) = true := by decide

/-- File 96, section 5.1: words 4 and 43 of the AES128 schedule. -/
theorem test_keyexpand_aes128 :
    ((wAfter (exec .keyexpand { idle .aes128 sboxFips197 with
      rqKey := [0x2B, 0x7E, 0x15, 0x16, 0x28, 0xAE, 0xD2, 0xA6, 0xAB, 0xF7, 0x15, 0x88, 0x09, 0xCF, 0x4F, 0x3C].map some }))[4]? =
        some (some 0xA0FAFE17)) ∧
    (wAfter (exec .keyexpand { idle .aes128 sboxFips197 with
      rqKey := [0x2B, 0x7E, 0x15, 0x16, 0x28, 0xAE, 0xD2, 0xA6, 0xAB, 0xF7, 0x15, 0x88, 0x09, 0xCF, 0x4F, 0x3C].map some }))[43]? =
        some (some 0xB6630CA6) := by decide +kernel

/-- File 96, section 4.1: word 59 of the AES256 schedule of the key 00 01 .. 1f, identity table. -/
theorem test_keyexpand_aes256 :
    (wAfter (exec .keyexpand { idle .aes256 sboxId with
      rqKey := (List.range 32).map fun n => some (BitVec.ofNat 8 n) }))[59]? = some (some 0x5C140C3C) := by decide +kernel

/-- File 95, section 3.4, the row with round 3. -/
theorem test_addroundkey :
    stAfter (exec (.addroundkey 3) { fipsAt 0x00112233445566778899AABBCCDDEEFF with
      w := List.replicate 12 (some 0) ++ [some 0xDEADBEEF, some 0x01020304, some 0xFFFFFFFF, some 0] ++
        List.replicate 28 (some 0) }) = some 0xDEBC9CDC4557657377665544CCDDEEFF := by decide +kernel

/-- File 96, section 5.2, index 3. -/
theorem test_subbytes : stAfter (exec .subbytes (fipsAt 0x00102030405060708090A0B0C0D0E0F0)) =
    some 0x63CAB7040953D051CD60E0E7BA70E18C := by decide +kernel

/-- File 95, section 3.5. -/
theorem test_shiftrows : stAfter (exec .shiftrows (fipsAt 0x000102030405060708090A0B0C0D0E0F)) =
    some 0x00050A0F04090E03080D02070C01060B := by decide +kernel

/-- File 96, section 5.2, index 5. -/
theorem test_mixcolumns : stAfter (exec .mixcolumns (fipsAt 0x6353E08C0960E104CD70B751BACAD0E7)) =
    some 0x5F72641557F5BC92F7BE3B291DB9F91A := by decide +kernel

/-- File 96, section 5.2, index 3 read backwards. -/
theorem test_invsubbytes : stAfter (exec .invsubbytes (fipsAt 0x63CAB7040953D051CD60E0E7BA70E18C)) =
    some 0x00102030405060708090A0B0C0D0E0F0 := by decide +kernel

/-- File 95, section 3.5. -/
theorem test_invshiftrows : stAfter (exec .invshiftrows (fipsAt 0x000102030405060708090A0B0C0D0E0F)) =
    some 0x000D0A0704010E0B0805020F0C090603 := by decide +kernel

/-- File 95, section 3.6: four of its columns, each in its place. -/
theorem test_invmixcolumns : stAfter (exec .invmixcolumns (fipsAt 0xDB135345F20A225C8E4DA1BC01000000)) =
    some 0x32A41D55AEC36982DB1353450E090D0B := by decide +kernel

/-! ### Commands, the sequencer, the transaction level -/

/-- File 95, section 3.8: five rows of the table. -/
theorem test_encode_accepts_and_rejects :
    nextSat (fun t => decide (t.mode = .run ∧ t.err = none ∧ t.rqCmd = some 0)) (exec .encode (asked .aes128 0 16 16)) = true ∧
    nextSat (fun t => decide (t.mode = .fault ∧ t.errPort = 1 ∧ t.rqCmd = none)) (exec .encode (asked .aes128 0 24 16)) = true ∧
    nextSat (fun t => decide (t.mode = .fault ∧ t.errPort = 1)) (exec .encode (asked .aes128 0 15 15)) = true ∧
    nextSat (fun t => decide (t.mode = .fault ∧ t.errPort = 2)) (exec .encode (asked .aes128 0 16 17)) = true := by
  decide +kernel

theorem test_decode_accepts_and_rejects :
    nextSat (fun t => decide (t.mode = .run ∧ t.err = none ∧ t.rqCmd = some 1)) (exec .decode (asked .aes256 1 32 16)) = true ∧
    nextSat (fun t => decide (t.mode = .fault ∧ t.errPort = 1)) (exec .decode (asked .aes256 1 33 16)) = true ∧
    nextSat (fun t => decide (t.mode = .fault ∧ t.errPort = 2)) (exec .decode (asked .aes256 1 32 15)) = true := by
  decide +kernel

/-- File 95, section 6.1, AES128: the head and the tail of both programs. -/
theorem test_program_aes128 :
    (program .aes128 0).take 7 = [0x00, 0x10, 0x20, 0x30, 0x40, 0x50, 0x21] ∧
    (program .aes128 0).drop 39 = [0x30, 0x40, 0x2A, 0x90] ∧
    (program .aes128 1).take 7 = [0x00, 0x10, 0x2A, 0x70, 0x60, 0x29, 0x80] ∧
    (program .aes128 1).drop 37 = [0x21, 0x80, 0x70, 0x60, 0x20, 0x90] := by decide

/-- File 96, section 4.2: AES192, key 00 01 .. 17, identity table; it tests `operate`, no run of the machine. -/
theorem test_operate_aes192 :
    (match operate { variant := .aes192, sbox := sboxId } 0 ((List.range 24).map (BitVec.ofNat 8))
        (unpackBlock 0x00112233445566778899AABBCCDDEEFF).toList with
      | .ok b => some (packBlock b)
      | .error _ => none) = some 0x7A4ADBDDCC225D41638761B5A0CAEF41 := by decide +kernel

/-- A word of each format, placed where the step fetches: the first step after reset runs it. -/
theorem test_first_step_after_reset :
    nextSat (fun t => decide (t.mode = .run ∧ t.upc = 3)) (step (State.reset.withFetchWord 8 0x20)) = true ∧
    nextSat (fun t => decide (t.mode = .run ∧ t.rqCmd = some 1)) (step (State.reset.withFetchWord 1 1)) = true ∧
    wireAfter (step (State.reset.withFetchWord 4 0x8)) = some (.word 0x01000000) := by decide +kernel

/-- R66: as a number of 8 bits 0x01 and 0x02 are reserved UOP words, not DECODE and MUL02, which are numbers of 1 bit and of 4 bits (R60, R70). -/
theorem test_decodeTableWord :
    [decodeTableWord 8 0x01, decodeTableWord 8 0x02, decodeTableWord 8 0x0C, decodeTableWord 8 0x2B] = [none, none, none, none] ∧
    [decodeTableWord 1 1, decodeTableWord 4 2, decodeTableWord 8 0x10] = [some .decode, some .mul02, some .keyexpand] := by
  decide +kernel

/-- `spec/opcode_table.json`: width and match of each of its 25 rows, and the row's instruction; the first step after reset runs it. -/
def tableRows : List (Nat × Nat × Instr) :=
  [(1, 0x0, .encode), (1, 0x1, .decode), (8, 0x00, .loadblock), (8, 0x10, .keyexpand), (8, 0x20, .addroundkey 0), (8, 0x30, .subbytes),
     (8, 0x40, .shiftrows), (8, 0x50, .mixcolumns), (8, 0x60, .invsubbytes), (8, 0x70, .invshiftrows), (8, 0x80, .invmixcolumns),
     (8, 0x90, .storeblock), (4, 0x0, .xtime), (4, 0x1, .gfmult), (4, 0x2, .mul02), (4, 0x3, .mul03), (4, 0x4, .mul09), (4, 0x5, .mul0b),
     (4, 0x6, .mul0d), (4, 0x7, .mul0e), (4, 0x8, .rcon), (4, 0x9, .subbyte), (4, 0xA, .invsubbyte), (4, 0xB, .subword), (4, 0xC, .rotword)]

theorem test_every_row_decodes_and_runs :
    (tableRows.all fun r => decide (decodeTableWord r.1 r.2.1 = some r.2.2)) = true ∧
    (tableRows.all fun r => nextSat (fun _ => true) (step (State.reset.withFetchWord r.1 r.2.1))) = true := by decide +kernel

/-! ### Witnesses: concrete states and operands that meet the hypotheses of each statement, one for each clause -/

theorem witness_RconOfItsDomain : 1 ≤ (wired sboxId 0 0 0 1).unit.i ∧ (wired sboxId 0 0 0 0).unit.i = 0 := by decide

theorem witness_GfmultIsTheFieldProduct : (0x02#8 ≠ 0 ∧ 0x8D#8 ≠ 0) ∧ gfMult 0x02 0x8D = 0x01 := by decide

theorem witness_ConstantMultipliersAreBijections :
    ((0x0E : Byte), mul0e) ∈ [((0x02 : Byte), mul02), (0x03, mul03), (0x09, mul09), (0x0B, mul0b), (0x0D, mul0d), (0x0E, mul0e)] := by
  simp

theorem witness_KeyexpandWritesTheSchedule :
    (running .aes256 0 1).rqKey = (List.replicate 32 (0 : Byte)).map some ∧
      (List.replicate 32 (0 : Byte)).length = (running .aes256 0 1).params.variant.keyBytes := by decide +kernel

theorem witness_ScheduleDependsOnTheKeyOnly :
    (running .aes128 0 1).params = (running .aes128 1 7).params ∧ (running .aes128 0 1).rqKey = (running .aes128 1 7).rqKey ∧
      ∃ t, exec .keyexpand (running .aes128 0 1) = .next t ∧ t.w ≠ (running .aes128 0 1).w :=
  ⟨by decide +kernel, by decide +kernel, exists_next (fun t => t.w ≠ (running .aes128 0 1).w) (by decide +kernel)⟩

/-- Both ends of the range of `rnd`. -/
theorem witness_AddroundkeyXorsTheRoundKey :
    (running .aes128 0 2).st = (Grid.ofFn fun _ _ => (0 : Byte)).map some ∧
    ((0 : BitVec 4).toNat ≤ (running .aes128 0 2).params.variant.nr ∧ ∀ c : Fin 4,
      (running .aes128 0 2).w[4 * (0 : BitVec 4).toNat + c.val]? = some (some ((Quad.ofFn fun _ => (0 : Word)).get c))) ∧
    ((10 : BitVec 4).toNat ≤ (running .aes128 0 2).params.variant.nr ∧ ∀ c : Fin 4,
      (running .aes128 0 2).w[4 * (10 : BitVec 4).toNat + c.val]? = some (some ((Quad.ofFn fun _ => (0 : Word)).get c))) := by
  decide +kernel

theorem witness_AddroundkeyAboveNrIsRefused :
    (idle .aes128 sboxId).params.variant.nr < (11 : BitVec 4).toNat ∧
      (idle .aes256 sboxId).params.variant.nr < (15 : BitVec 4).toNat := by decide

/-- For the statements about the transformations of `ST`: SUBBYTES to INVMIXCOLUMNS, STOREBLOCK. -/
theorem witness_SubbytesSubstitutesEachByte :
    (fipsAt 0x00112233445566778899AABBCCDDEEFF).st = (matrix 0x00112233445566778899AABBCCDDEEFF).map some := rfl

theorem witness_InvsubbytesSubstitutesEachByteBack :
    (fipsAt 0x63CAB7040953D051CD60E0E7BA70E18C).st = (matrix 0x63CAB7040953D051CD60E0E7BA70E18C).map some := rfl

theorem witness_ShiftrowsRotatesRowsLeft :
    (fipsAt 0x000102030405060708090A0B0C0D0E0F).st = (matrix 0x000102030405060708090A0B0C0D0E0F).map some := rfl

theorem witness_InvshiftrowsRotatesRowsRight :
    (fipsAt 0x00050A0F04090E03080D02070C01060B).st = (matrix 0x00050A0F04090E03080D02070C01060B).map some := rfl

theorem witness_MixcolumnsMultipliesByTheCirculant :
    (fipsAt 0x6353E08C0960E104CD70B751BACAD0E7).st = (matrix 0x6353E08C0960E104CD70B751BACAD0E7).map some := rfl

theorem witness_InvmixcolumnsMultipliesByTheInverseCirculant :
    (fipsAt 0x5F72641557F5BC92F7BE3B291DB9F91A).st = (matrix 0x5F72641557F5BC92F7BE3B291DB9F91A).map some := rfl

theorem witness_StoreblockIsColumnMajor :
    (fipsAt 0x102030405060708090A0B0C0D0E0F000).st = (matrix 0x102030405060708090A0B0C0D0E0F000).map some := rfl

theorem witness_RoundTransformationsAreUndone :
    (running .aes192 0 6).rqBlock = (Seq16.ofFn fun _ => (0 : Byte)).map some ∧
    (running .aes192 0 6).st = (Grid.ofFn fun _ _ => (0 : Byte)).map some ∧
      (12 : BitVec 4).toNat ≤ (running .aes192 0 6).params.variant.nr ∧ ∀ c : Fin 4,
        (running .aes192 0 6).w[4 * (12 : BitVec 4).toNat + c.val]? = some (some ((Quad.ofFn fun _ => (0 : Word)).get c)) := by
  decide +kernel

theorem witness_LoadblockIsColumnMajor :
    (running .aes128 1 0).rqBlock = (Seq16.ofFn fun _ => (0 : Byte)).map some := by decide

/-- The three clauses, the two wrong lengths at the boundary, from IDLE and from DONE. -/
theorem witness_CommandsAreTheAcceptStep :
    ((Instr.encode, 0#1) ∈ [(Instr.encode, 0#1), (Instr.decode, 1#1)] ∧
      (Instr.decode, 1#1) ∈ [(Instr.encode, 0#1), (Instr.decode, 1#1)]) ∧
    ((asked .aes128 0 17 16).mode ≠ .run ∧ (asked .aes128 0 17 16).pins.keyLen.toNat ≠ 4 * Variant.aes128.nk) ∧
    ((asked .aes128 1 16 15).mode ≠ .run ∧ (asked .aes128 1 16 15).pins.keyLen.toNat = 4 * Variant.aes128.nk ∧
      (asked .aes128 1 16 15).pins.blockLen ≠ 16) ∧
    (State.mode { asked .aes256 1 32 16 with mode := .done } ≠ .run ∧
      (asked .aes256 1 32 16).pins.keyLen.toNat = 4 * Variant.aes256.nk ∧ (asked .aes256 1 32 16).pins.blockLen = 16) := by
  decide

theorem witness_CommandsWhileRunningHaveNoEffect : (running .aes128 0 5).mode = .run := rfl

/-- Both sides of the equivalence, at the largest round. -/
theorem witness_DecodeAndEncodeAgree :
    decode .aes192 (.uop 0x2C) = .ok (.addroundkey 12) ∧
      (Instr.wf .aes192 (.addroundkey 12) = true ∧ encode (.addroundkey 12) = .uop 0x2C) := by decide

/-- Both ends of the rounds that the loop of the listing covers. -/
theorem witness_ProgramListing :
    (1 ≤ 1 ∧ 1 ≤ Variant.aes128.nr - 1) ∧ (1 ≤ 13 ∧ 13 ≤ Variant.aes256.nr - 1) := by decide

theorem witness_ProgramsHoldNoReservedWord : (0x2E#8 ∈ program .aes256 0) ∧ (0x80#8 ∈ program .aes128 1) := by decide

theorem witness_ResetStepClearsTheCore :
    (State.pins { running .aes128 0 5 with pins := { Pins.low with rst := true } }).rst = true := rfl

/-- Both clauses. -/
theorem witness_AReadyStepRunsThePresentedCommand :
    ((asked .aes128 1 16 16).pins.rst = false ∧ (asked .aes128 1 16 16).bench = none ∧ (asked .aes128 1 16 16).mode ≠ .run ∧
      (asked .aes128 1 16 16).pins.req = true) ∧
    ((idle .aes128 sboxId).pins.rst = false ∧ (idle .aes128 sboxId).bench = none ∧ (idle .aes128 sboxId).mode ≠ .run ∧
      (idle .aes128 sboxId).pins.req = false) := by decide

/-- The first index, the last but one and the last of the AES128 ENCODE program. -/
theorem witness_AMicroStepRunsTheDecodedWord :
    ((running .aes128 0 0).pins.rst = false ∧ (running .aes128 0 0).bench = none ∧ (running .aes128 0 0).mode = .run ∧
      (running .aes128 0 0).rqCmd = some 0) ∧
    ((program .aes128 0)[(running .aes128 0 0).upc.toNat]? = some 0x00 ∧ decode .aes128 (.uop 0x00) = .ok .loadblock) ∧
    ((program .aes128 0)[(running .aes128 0 41).upc.toNat]? = some 0x2A ∧
      decode .aes128 (.uop 0x2A) = .ok (.addroundkey 10) ∧ (running .aes128 0 41).upc.toNat < 4 * Variant.aes128.nr + 2) ∧
    ((program .aes128 0)[(running .aes128 0 42).upc.toNat]? = some 0x90 ∧ decode .aes128 (.uop 0x90) = .ok .storeblock ∧
      ¬ (running .aes128 0 42).upc.toNat < 4 * Variant.aes128.nr + 2) := by decide

/-- The three clauses: a label, and exec of it answers a next state; a label that names nothing; a legal micro-operation. -/
theorem witness_ABenchStepEvaluatesTheUnit :
    ((idle .aes128 sboxId).pins.rst = false ∧
      State.bench { idle .aes128 sboxId with bench := some (.func 0xC) } = some (.func 0xC)) ∧
    decode .aes128 (.func 0xC) = .ok .rotword ∧ decode .aes128 (.func 0xD) = .error (.reservedFunc 0xD) ∧
    (∃ t, exec .rotword { idle .aes128 sboxId with bench := some (.func 0xC) } = .next t ∧ t.bench = some (.func 0xC)) ∧
    ((∀ f, EncWord.uop 0x10 ≠ .func f) ∧ decode .aes128 (.uop 0x10) = .ok .keyexpand) := by
  refine ⟨by decide, by decide, by decide, exists_next (fun t => t.bench = some (.func 0xC)) (by decide), nofun, by decide⟩

/-- A word of each format; the micro-operation is the last round's. -/
theorem witness_ThePlacedWordIsFetched :
    (tableWord 1 1 = some (.cmd 1) ∧ decode .aes128 (.cmd 1) = .ok .decode) ∧
    (tableWord 4 12 = some (.func 0xC) ∧ decode .aes128 (.func 0xC) = .ok .rotword) ∧
    (tableWord 8 0x2A = some (.uop 0x2A) ∧ decode .aes128 (.uop 0x2A) = .ok (.addroundkey 10)) := by decide +kernel

/-- The three kinds of reserved UOP word (R66), and a reserved label (R67). -/
theorem witness_ReservedNumbersAreRefused :
    (tableWord 8 0x02 = some (.uop 0x02) ∧ decode .aes128 (.uop 0x02) = .error (.operandNotZero 0x02)) ∧
    (tableWord 8 0xA0 = some (.uop 0xA0) ∧ decode .aes128 (.uop 0xA0) = .error (.reservedOpcode 0xA0)) ∧
    (tableWord 8 0x2B = some (.uop 0x2B) ∧ decode .aes128 (.uop 0x2B) = .error (.roundAboveNr 0x2B)) ∧
    (tableWord 4 0xD = some (.func 0xD) ∧ decode .aes128 (.func 0xD) = .error (.reservedFunc 0xD)) := by decide +kernel

/-- A core in DONE with a result. -/
def finished : State := { idle .aes128 sboxId with mode := .done, out := (unpackBlock 0x0123456789ABCDEF).map some }

theorem witness_BlockOutCarriesTheResult :
    finished.mode = .done ∧ finished.out = (unpackBlock 0x0123456789ABCDEF).map some ∧
      finished.pins.rst = false ∧ finished.bench = none ∧ finished.pins.req = false := by decide

/-- Every clause: at a core just reset; with a matrix loaded and no schedule; at a core in DONE, which no run reaches, whose OUT holds none. -/
theorem witness_AReadOfNoneFaults :
    (idle .aes128 sboxId).st.all? = none ∧ (idle .aes128 sboxId).rqBlock.all? = none ∧
    allSome (idle .aes128 sboxId).rqKey = none ∧ (idle .aes128 sboxId).rqKey.length = Variant.aes128.keyBytes ∧
    ((10 : BitVec 4).toNat ≤ Variant.aes128.nr ∧ (fipsAt 0).st = (matrix 0).map some ∧
      (fipsAt 0).w.length = Variant.aes128.nwords ∧
      ∃ c : Fin 4, (fipsAt 0).w[4 * (10 : BitVec 4).toNat + c.val]? = some none) ∧
    (State.mode { finished with out := Seq16.empty } = .done ∧ State.out { finished with out := Seq16.empty } = Seq16.empty ∧
      (Seq16.empty : Seq16 (Option Byte)).all? = none) ∧
    (idle .aes128 sboxId).mode ≠ .done := by decide +kernel

/-- R30, R211 b (OUT none while done = 1) and R45 (byte 0 in the top bits). -/
theorem test_blockOut :
    State.blockOut { finished with out := Seq16.empty } = .error (.readNone .out) ∧
      finished.blockOut = .ok 0x0123456789ABCDEF := ⟨by rfl, by rfl⟩

/-- Each of the transitions: reset, a request taken, a request rejected, the completion. -/
theorem witness_ModeTransitions :
    (∃ t, step { running .aes128 0 5 with pins := { Pins.low with rst := true } } = .next t ∧ t.mode = .idle) ∧
    (∃ t, step (asked .aes128 0 16 16) = .next t ∧ t.mode = .run) ∧
    (∃ t, step (asked .aes128 0 15 16) = .next t ∧ t.mode = .fault) ∧
    (∃ t, step (running .aes128 0 42) = .next t ∧ t.mode = .done) :=
  ⟨exists_next (fun t => t.mode = .idle) (by decide +kernel), exists_next (fun t => t.mode = .run) (by decide +kernel),
    exists_next (fun t => t.mode = .fault) (by decide +kernel), exists_next (fun t => t.mode = .done) (by decide +kernel)⟩

/-- A step that changes each register: LOADBLOCK, KEYEXPAND, the accept step, STOREBLOCK. -/
theorem witness_RegisterWriters :
    (∃ t, step (running .aes128 0 0) = .next t ∧ t.st ≠ (running .aes128 0 0).st) ∧
    (∃ t, step (running .aes128 0 1) = .next t ∧ t.w ≠ (running .aes128 0 1).w) ∧
    (∃ t, step (asked .aes128 0 16 16) = .next t ∧ t.rqKey ≠ (asked .aes128 0 16 16).rqKey) ∧
    (∃ t, step (running .aes128 0 42) = .next t ∧ t.out ≠ (running .aes128 0 42).out) ∧
    (∃ t, step (asked .aes128 0 15 16) = .next t ∧ t.err ≠ none) :=
  ⟨exists_next (fun t => t.st ≠ (running .aes128 0 0).st) (by decide +kernel),
    exists_next (fun t => t.w ≠ (running .aes128 0 1).w) (by decide +kernel),
    exists_next (fun t => t.rqKey ≠ (asked .aes128 0 16 16).rqKey) (by decide +kernel),
    exists_next (fun t => t.out ≠ (running .aes128 0 42).out) (by decide +kernel),
    exists_next (fun t => t.err ≠ none) (by decide +kernel)⟩

/-- A core in RUN, and a host that presents another request meanwhile. -/
theorem witness_RunningIgnoresTheInputs :
    (running .aes128 0 5).mode = .run ∧ (running .aes128 0 5).bench = none ∧ (running .aes128 0 5).pins.rst = false ∧
    (asked .aes128 1 16 16).pins.rst = false ∧ ∃ t, step (running .aes128 0 5) = .next t ∧ t.upc = 6 :=
  ⟨rfl, rfl, rfl, rfl, exists_next (fun t => t.upc = 6) (by decide +kernel)⟩

/-- The invariant holds at the first index, after KEYEXPAND, at the last index, and in FAULT. -/
theorem witness_EveryStepKeepsTheInvariant :
    ((running .aes128 0 0).Inv ∧ ∃ t, step (running .aes128 0 0) = .next t ∧ t.upc = 1) ∧
    ((running .aes256 1 58).Inv ∧ ∃ t, step (running .aes256 1 58) = .next t ∧ t.mode = .done) ∧
    ((asked .aes128 0 15 16).Inv ∧ ∃ t, step (asked .aes128 0 15 16) = .next t ∧ t.mode = .fault) := by
  refine ⟨⟨?_, exists_next (fun t => t.upc = 1) (by decide +kernel)⟩,
    ⟨?_, exists_next (fun t => t.mode = .done) (by decide +kernel)⟩,
    ⟨?_, exists_next (fun t => t.mode = .fault) (by decide +kernel)⟩⟩ <;>
    refine ⟨by decide +kernel, by decide +kernel, by decide +kernel, by decide +kernel, by decide +kernel⟩

theorem witness_NoStepOfTheCoreStops : (running .aes192 1 2).Inv ∧ (running .aes192 1 2).bench = none := by
  exact ⟨⟨by decide +kernel, by decide +kernel, by decide +kernel, by decide +kernel, by decide +kernel⟩, rfl⟩

/-- Both cases of OPERATE: a legal request, and a key one byte too long. -/
theorem witness_TheSteppedMachineComputesOperate :
    ((asked .aes128 0 16 16).mode ≠ .run ∧ (asked .aes128 0 16 16).pins.req = true ∧
      (asked .aes128 0 16 16).undisturbed Variant.aes128.uplen ∧
      ∃ b, operate (asked .aes128 0 16 16).params 0 (asked .aes128 0 16 16).requestKeyBytes
        (asked .aes128 0 16 16).requestBlockBytes = .ok b) ∧
    ((asked .aes128 0 17 16).mode ≠ .run ∧ (asked .aes128 0 17 16).undisturbed Variant.aes128.uplen ∧
      operate (asked .aes128 0 17 16).params 0 (asked .aes128 0 17 16).requestKeyBytes
        (asked .aes128 0 17 16).requestBlockBytes = .error .invalidKeyLength) :=
  ⟨⟨nofun, rfl, ⟨rfl, rfl, nofun⟩, _, rfl⟩, nofun, ⟨rfl, rfl, nofun⟩, rfl⟩

/-- Two cores with one request on their ports: one just reset, one that holds a result. -/
theorem witness_TheResponseForgetsTheHistory :
    (asked .aes128 0 16 16).mode ≠ .run ∧ State.mode { finished with pins := (asked .aes128 0 16 16).pins } ≠ .run ∧
    (asked .aes128 0 16 16).params = finished.params ∧ (asked .aes128 0 16 16).script = finished.script ∧
    (asked .aes128 0 16 16).bench = none ∧ finished.bench = none ∧ (asked .aes128 0 16 16).pins.rst = false ∧
    (asked .aes128 0 16 16).pins.req = true ∧
    ∃ t, Sys2Proof.core.run (0 + 1) (asked .aes128 0 16 16) = .next t ∧ t.mode = .run :=
  ⟨nofun, nofun, rfl, rfl, rfl, rfl, rfl, rfl, exists_next (fun t => t.mode = .run) (by decide +kernel)⟩

/-- A key of the right length and one a byte too short. -/
theorem witness_DecodingUndoesEncoding :
    (List.replicate 24 (0 : Byte)).length = Variant.aes192.keyBytes ∧
      (List.replicate 23 (0 : Byte)).length ≠ Variant.aes192.keyBytes := by decide

theorem witness_TheProgramsRunTheSequences :
    (running .aes128 0 2).st = (Grid.ofFn fun _ _ => (0 : Byte)).map some ∧
      (running .aes128 0 2).w = (List.replicate 44 (0 : Word)).map some ∧
      (List.replicate 44 (0 : Word)).length = Variant.aes128.nwords := by decide +kernel

end Sys2Proof.Tests
end

section
/-! Bytes of a word (spec R13) and of the block and key ports (R45): byte 0 is the most significant. -/

namespace Sys2Proof

/-! ### The list of a block's bytes -/

@[simp] theorem Seq16.length_toList {α : Type} (b : Seq16 α) : b.toList.length = 16 := rfl

theorem Seq16.getElem_toList {α : Type} (b : Seq16 α) (i : Fin 16) : b.toList[i.val]'i.isLt = b.get i := by
  fin_cases i <;> rfl

namespace Machine

/-! ### Words -/

/-- A byte put below a bit vector counts once, and what stands above it counts 2^8 times. -/
theorem toNat_append_byte {n : Nat} (x : BitVec n) (b : Byte) : (x ++ b).toNat = x.toNat * 2 ^ 8 + b.toNat := by
  rw [BitVec.toNat_append, ← Nat.shiftLeft_add_eq_or_of_lt b.isLt, Nat.shiftLeft_eq]

theorem wordOf_toNat (b0 b1 b2 b3 : Byte) :
    (wordOf b0 b1 b2 b3).toNat = b0.toNat * 2 ^ 24 + b1.toNat * 2 ^ 16 + b2.toNat * 2 ^ 8 + b3.toNat := by
  simp only [wordOf, toNat_append_byte]
  omega

/-- Neighbouring fields of a word join to the field that spans them, three times. -/
theorem wordOf_extractLsb' (w : Word) :
    wordOf (w.extractLsb' 24 8) (w.extractLsb' 16 8) (w.extractLsb' 8 8) (w.extractLsb' 0 8) = w := by
  rw [wordOf, BitVec.extractLsb'_append_extractLsb'_eq_extractLsb' (by rfl),
    BitVec.extractLsb'_append_extractLsb'_eq_extractLsb' (by rfl),
    BitVec.extractLsb'_append_extractLsb'_eq_extractLsb' (by rfl), BitVec.extractLsb'_eq_self]

/-! ### Packing bytes one after another -/

/-- The fold of `packBlock` (R45), over any list of bytes. -/
def packBytes (l : List Byte) : BitVec 128 := l.foldl (fun acc x => (acc <<< 8) ||| x.setWidth 128) 0

theorem packBlock_eq_packBytes (b : Seq16 Byte) : packBlock b = packBytes b.toList := rfl

theorem packBytes_concat (l : List Byte) (x : Byte) :
    packBytes (l ++ [x]) = (packBytes l <<< 8) ||| x.setWidth 128 := by
  simp [packBytes]

/-- The byte packed last stands in the low eight bits. -/
theorem packBytes_concat_extractLsb'_zero (l : List Byte) (x : Byte) :
    (packBytes (l ++ [x])).extractLsb' 0 8 = x := by
  rw [packBytes_concat]
  ext j hj
  have hw : j < 128 := by omega
  simp [hj, hw]

/-- One more byte moves the bytes packed before it up by eight bits. -/
theorem packBytes_concat_extractLsb'_add (l : List Byte) (x : Byte) {k : Nat} (hk : k + 16 ≤ 128) :
    (packBytes (l ++ [x])).extractLsb' (k + 8) 8 = (packBytes l).extractLsb' k 8 := by
  rw [packBytes_concat]
  ext j hj
  have hx : x.getLsbD (k + 8 + j) = false := BitVec.getLsbD_of_ge _ _ (by omega)
  have hs : k + 8 + j - 8 = k + j := by omega
  have hw : k + 8 + j < 128 := by omega
  have h8 : ¬ k + 8 + j < 8 := by omega
  simp only [BitVec.getElem_extractLsb', BitVec.getLsbD_or, BitVec.getLsbD_shiftLeft, BitVec.getLsbD_setWidth]
  simp [hx, hs, hw, h8]

/-- Byte `i` of a list of at most sixteen packed bytes, by how many bytes follow it. -/
theorem packBytes_extractLsb' (l : List Byte) (hl : l.length ≤ 16) (i : Nat) (hi : i < l.length) :
    (packBytes l).extractLsb' (8 * (l.length - 1 - i)) 8 = l[i] := by
  induction l using List.reverseRecOn with
  | nil => simp at hi
  | append_singleton l x ih =>
    simp only [List.length_append, List.length_singleton] at hl hi
    rcases Nat.lt_succ_iff_lt_or_eq.mp hi with h | rfl
    · have hk : 8 * ((l ++ [x]).length - 1 - i) = 8 * (l.length - 1 - i) + 8 := by
        simp only [List.length_append, List.length_singleton]
        omega
      rw [hk, packBytes_concat_extractLsb'_add l x (by omega), ih (by omega) h, List.getElem_append_left]
    · simpa using packBytes_concat_extractLsb'_zero l x

/-! ### Blocks -/

@[simp] theorem packBlock_extractLsb' (b : Seq16 Byte) (i : Fin 16) :
    (packBlock b).extractLsb' (120 - 8 * i.val) 8 = b.get i := by
  have h := packBytes_extractLsb' b.toList (by simp) i.val (by simp)
  have hk : 8 * (b.toList.length - 1 - i.val) = 120 - 8 * i.val := by
    rw [Seq16.length_toList]
    omega
  rwa [hk, Seq16.getElem_toList, ← packBlock_eq_packBytes] at h

@[simp] theorem unpackBlock_get (x : BitVec 128) (i : Fin 16) :
    (unpackBlock x).get i = x.extractLsb' (120 - 8 * i.val) 8 := by
  simp [unpackBlock]

theorem unpackBlock_packBlock (b : Seq16 Byte) : unpackBlock (packBlock b) = b :=
  Seq16.ext_get fun i => by rw [unpackBlock_get, packBlock_extractLsb']

/-- A block level is fixed by its sixteen bytes: bit `n` is bit `n % 8` of byte `15 - n / 8`. -/
theorem unpackBlock_injective : Function.Injective unpackBlock := by
  intro x y h
  ext n hn
  have hb := congrArg (fun b => (b.get ⟨15 - n / 8, by omega⟩).getLsbD (n % 8)) h
  have hbit : 120 - 8 * (15 - n / 8) + n % 8 = n := by omega
  have hlt : n % 8 < 8 := Nat.mod_lt _ (by decide)
  simpa [BitVec.getLsbD_extractLsb', hbit, hlt, hn] using hb

theorem packBlock_unpackBlock (x : BitVec 128) : packBlock (unpackBlock x) = x :=
  unpackBlock_injective (unpackBlock_packBlock _)

/-! ### The key port -/

theorem keyPortByte_getLsbD (x : BitVec 256) (i : Nat) (j : Fin 8) :
    (keyPortByte x i).getLsbD j.val = x.getLsbD (248 - 8 * i + j.val) := by
  simp [keyPortByte]

/-- Settles O13: words by their fields; a block by the byte each packed byte ends in; the key port bit by bit. -/
theorem bytesOfWordsAndPorts : Obligations.BytesOfWordsAndPorts :=
  ⟨wordOf_toNat, wordOf_extractLsb', packBlock_extractLsb', fun x i j => keyPortByte_getLsbD x i.val j,
    unpackBlock_packBlock, packBlock_unpackBlock⟩

end Machine

end Sys2Proof
end

section
/-! The sequencer's state (spec R24 to R29): the status outputs, the transitions of MODE, and that the response to a request does not depend
on what the registers held before it. -/

namespace Sys2Proof.Machine

/-! ### The status outputs (R26, R27) -/

theorem ready_iff_mode (s : State) : s.ready = true ↔ s.mode = .idle ∨ s.mode = .done ∨ s.mode = .fault := by
  rw [ready_iff]
  cases s.mode <;> simp

/-- Each code of `ERR` reads back. -/
@[simp] theorem errOfCode_errCode (e : Option LengthError) : errOfCode (errCode e) = some e := by
  match e with
  | none | some .invalidKeyLength | some .invalidBlockLength => rfl

theorem errCode_injective : Function.Injective errCode := fun a b h =>
  Option.some.inj (by rw [← errOfCode_errCode a, h, errOfCode_errCode])

theorem errPort_eq_errCode_iff (s : State) (e : Option LengthError) : s.errPort = errCode e ↔ s.err = e :=
  errCode_injective.eq_iff

/-- A code that stands for nothing is the code of nothing. -/
theorem errCode_ne_three (e : Option LengthError) : errCode e ≠ 3 := fun h => by
  have h3 : errOfCode 3 = some e := h ▸ errOfCode_errCode e
  cases h3

/-- Settles O43: `ready` and `done` by the modes; the codes of `ERR` by their reading back. -/
theorem statusOutputs : Obligations.StatusOutputs :=
  ⟨fun s => ⟨ready_iff_mode s, done_iff s, errPort_eq_errCode_iff s none, errPort_eq_errCode_iff s (some .invalidKeyLength),
    errPort_eq_errCode_iff s (some .invalidBlockLength), errCode_ne_three s.err⟩, errOfCode_errCode, rfl⟩

/-! ### The program and its counter (R184, R186) -/

theorem length_program (v : Variant) (c : BitVec 1) : (program v c).length = v.uplen := by
  unfold program
  split <;> cases v <;> rfl

theorem program_zero (v : Variant) (c : BitVec 1) : (program v c)[0]? = some 0x00 := by
  unfold program
  split <;> rfl

theorem program_one (v : Variant) (c : BitVec 1) : (program v c)[1]? = some 0x10 := by
  unfold program
  split <;> rfl

/-- A micro step runs the decoded word of a program at an index inside it. -/
theorem event_micro_fetch {s : State} {i : Instr} (h : s.event = .micro i) :
    s.upc.toNat < s.params.variant.uplen ∧ IsMicro i ∧
      (s.upc = 0 → i = .loadblock) ∧ (s.upc = 1 → i = .keyexpand) := by
  obtain ⟨-, -, -, hm⟩ := event_eq_micro h
  obtain ⟨c, u, -, hu, hd⟩ := microEvent_micro hm
  refine ⟨?_, decodeUop_isMicro hd, fun h0 => ?_, fun h1 => ?_⟩
  · obtain ⟨hlt, -⟩ := List.getElem?_eq_some_iff.mp hu
    rwa [length_program] at hlt
  · obtain rfl : 0x00 = u := Option.some.inj (by rw [← program_zero s.params.variant c, ← hu, h0]; rfl)
    exact (Except.ok.inj hd).symm
  · obtain rfl : 0x10 = u := Option.some.inj (by rw [← program_one s.params.variant c, ← hu, h1]; rfl)
    exact (Except.ok.inj hd).symm

/-! ### The transitions of MODE (R24) -/

/-- The accept step leaves RUN alone and every other mode for RUN or FAULT. -/
theorem accept_mode (s : State) (c : BitVec 1) (h : s.mode ≠ .run) :
    (s.accept c).mode = .run ∨ (s.accept c).mode = .fault := by
  rcases accept_cases s c with ⟨hm, -⟩ | ⟨-, ⟨e, -, ha⟩ | ⟨-, ha⟩⟩
  · exact absurd hm h
  · exact .inr (by rw [ha, State.raise_mode])
  · exact .inl (by rw [ha, State.startRun_mode])

/-- A micro-operation does not change `MODE`, `UPC` or the parameters. -/
theorem exec_micro_mode {s u : State} {i : Instr} (hi : IsMicro i) (h : exec i s = .next u) :
    u.mode = s.mode ∧ u.upc = s.upc ∧ u.params = s.params := by
  rw [exec_micro_frame hi h]
  exact ⟨rfl, rfl, rfl⟩

/-- The end of a micro step changes `MODE` only after the last index, to DONE. -/
theorem endMicro_mode (s : State) :
    s.endMicro.mode = s.mode ∨ (s.params.variant.uplen - 1 ≤ s.upc.toNat ∧ s.endMicro.mode = .done) := by
  rcases advance_cases s with ⟨-, ha⟩ | ⟨hlast, ha⟩
  · exact .inl (by rw [State.endMicro, State.tick_mode, ha])
  · exact .inr ⟨Nat.le_of_not_lt hlast, by rw [State.endMicro, State.tick_mode, ha, State.complete_mode]⟩

/-- Settles O46, by what a step can do; the last index is the only one at or above `UPLEN - 1` that a program has. -/
theorem modeTransitions : Obligations.ModeTransitions := by
  refine ⟨rfl, fun s t hstep hne => ?_⟩
  rcases step_cases hstep with ⟨he, rfl⟩ | ⟨-, rfl⟩ | ⟨i, u, he, hx, rfl⟩ | ⟨i, u, he, hx, rfl⟩ | ⟨i, u, he, hx, rfl⟩
  · exact .inl ⟨event_eq_reset he, rfl⟩
  · exact absurd rfl hne
  · obtain ⟨hr, -, hm, hq, rfl⟩ := event_eq_command he
    rw [exec_decodeCmd] at hx
    obtain rfl := Host.Outcome.next.inj hx
    exact .inr (.inl ⟨hr, hq, hm, accept_mode s _ hm⟩)
  · obtain ⟨hr, -, hm, -⟩ := event_eq_micro he
    obtain ⟨hlt, hi, -, -⟩ := event_micro_fetch he
    obtain ⟨hmode, hupc, hpar⟩ := exec_micro_mode hi hx
    rcases endMicro_mode u with hsame | ⟨hlast, hdone⟩
    · exact absurd (hsame.trans hmode) hne
    · rw [hpar, hupc] at hlast
      have hlen : s.params.variant.uplen = 4 * s.params.variant.nr + 3 := rfl
      exact .inr (.inr ⟨hr, hm, by omega, hdone⟩)
  · obtain ⟨-, f, -, hd⟩ := event_eq_unit he
    obtain ⟨r, rfl⟩ := exec_func_frame hd hx
    exact absurd rfl hne

/-! ### The response does not depend on the history (R29) -/

theorem step_of_reset {s : State} (he : s.event = .reset) : step s = .next s.resetStep := by
  simp only [step, he]

theorem step_of_idle {s : State} (he : s.event = .idle) : step s = .next s.tick := by
  simp only [step, he]

theorem step_of_command {s u : State} {i : Instr} (he : s.event = .command i) (hx : exec i s = .next u) :
    step s = .next u.tick := by
  simp only [step, he, hx, onNext_next]

theorem step_of_micro {s u : State} {i : Instr} (he : s.event = .micro i) (hx : exec i s = .next u) :
    step s = .next u.endMicro := by
  simp only [step, he, hx, onNext_next]

/-- `s` with what an operation writes before it reads it, `ST`, `W` and `RQ`, and with the function units' wires and the draw counter, from `x`. -/
abbrev State.withHistory (s x : State) : State :=
  { s with st := x.st, w := x.w, rqCmd := x.rqCmd, rqKey := x.rqKey, rqBlock := x.rqBlock, unit := x.unit, draws := x.draws }

/-- The relation that every step keeps (R29): the two cores differ in their history alone; and in RUN they are alike in `RQ`, in `ST` once
LOADBLOCK has written it, and in `W` once KEYEXPAND has. -/
structure SameResponse (s s' : State) : Prop where
  bench : s.bench = none
  frame : s' = s.withHistory s'
  request : s.mode = .run → s'.rqCmd = s.rqCmd ∧ s'.rqKey = s.rqKey ∧ s'.rqBlock = s.rqBlock
  st : s.mode = .run → s.upc ≠ 0 → s'.st = s.st
  w : s.mode = .run → s.upc ≠ 0 → s.upc ≠ 1 → s'.w = s.w

/-- Cores that do not run and are alike as the relation asks. -/
theorem SameResponse.of_not_run {s s' : State} (hm : s.mode ≠ .run) (hb : s.bench = none) (hf : s' = s.withHistory s') :
    SameResponse s s' :=
  ⟨hb, hf, fun h => absurd h hm, fun h => absurd h hm, fun h => absurd h hm⟩

theorem accept_error {s : State} {e : LengthError} (c : BitVec 1) (hm : s.mode ≠ .run)
    (he : lengthError s.params.variant s.pins.keyLen.toNat s.pins.blockLen.toNat = some e) : s.accept c = s.raise e := by
  simp [State.accept, (ready_iff s).mpr hm, he]

theorem accept_legal {s : State} (c : BitVec 1) (hm : s.mode ≠ .run)
    (he : lengthError s.params.variant s.pins.keyLen.toNat s.pins.blockLen.toNat = none) : s.accept c = s.startRun c := by
  simp [State.accept, (ready_iff s).mpr hm, he]

/-- The accept step makes cores alike, whatever their registers held. -/
theorem accept_sameResponse {s s' : State} (c : BitVec 1) (hm : s.mode ≠ .run) (hm' : s'.mode ≠ .run)
    (hpar : s'.params = s.params) (hpins : s'.pins = s.pins) (hscr : s'.script = s.script) :
    SameResponse (s.accept c).tick (s'.accept c).tick := by
  cases he : lengthError s.params.variant s.pins.keyLen.toNat s.pins.blockLen.toNat with
  | some e =>
    rw [accept_error c hm he, accept_error c hm' (by rw [hpar, hpins, he])]
    exact .of_not_run nofun rfl (by simp [State.tick, State.raise, hpar, hpins, hscr])
  | none =>
    rw [accept_legal c hm he, accept_legal c hm' (by rw [hpar, hpins, he])]
    exact {
      bench := rfl
      frame := by simp [State.tick, State.startRun, State.requestKey, hpar, hpins, hscr]
      request := fun _ => by simp [State.requestKey, hpar, hpins]
      st := fun _ h0 => absurd rfl h0
      w := fun _ h0 => absurd rfl h0 }

/-- Alike cores call for the same event: RUN alone looks at `RQ`. -/
theorem SameResponse.event {s s' : State} (h : SameResponse s s') : s'.event = s.event := by
  have hrst : s'.pins.rst = s.pins.rst := by rw [h.frame]
  cases hr : s.pins.rst with
  | true => rw [event_reset hr, event_reset (hrst.trans hr)]
  | false =>
    have hb : s'.bench = none := by rw [h.frame, h.bench]
    by_cases hm : s.mode = .run
    · have hm' : s'.mode = .run := by rw [h.frame, hm]
      have hcmd := (h.request hm).1
      rw [event_run hr h.bench hm, event_run (hrst.trans hr) hb hm', h.frame]
      simp only [State.microEvent, State.fetchUop, State.readRqCmd, hcmd]
    · have hm' : s'.mode ≠ .run := by rwa [h.frame]
      rw [event_ready hr h.bench hm, event_ready (hrst.trans hr) hb hm', h.frame]

/-- A micro-operation pays no heed to the function units' wires and the draw counter, and leaves them alone. -/
theorem exec_micro_ignores_unit_draws {s u : State} {i : Instr} (hi : IsMicro i) (h : exec i s = .next u) (x : UnitWires)
    (d : Nat) : exec i { s with unit := x, draws := d } = .next { u with unit := x, draws := d } := by
  cases i with
  | loadblock => obtain ⟨b, hb, rfl⟩ := exec_loadblock_next.mp h; exact exec_loadblock_next.mpr ⟨b, hb, rfl⟩
  | keyexpand =>
    obtain ⟨key, hk, hlen, rfl⟩ := exec_keyexpand_next.mp h
    exact exec_keyexpand_next.mpr ⟨key, hk, hlen, rfl⟩
  | addroundkey rnd =>
    obtain ⟨hr, m, k, hm, hk, rfl⟩ := exec_addroundkey_next.mp h
    exact exec_addroundkey_next.mpr ⟨hr, m, k, hm, hk, rfl⟩
  | subbytes => obtain ⟨m, hm, rfl⟩ := exec_subbytes_next.mp h; exact exec_subbytes_next.mpr ⟨m, hm, rfl⟩
  | shiftrows => obtain ⟨m, hm, rfl⟩ := exec_shiftrows_next.mp h; exact exec_shiftrows_next.mpr ⟨m, hm, rfl⟩
  | mixcolumns => obtain ⟨m, hm, rfl⟩ := exec_mixcolumns_next.mp h; exact exec_mixcolumns_next.mpr ⟨m, hm, rfl⟩
  | invsubbytes => obtain ⟨m, hm, rfl⟩ := exec_invsubbytes_next.mp h; exact exec_invsubbytes_next.mpr ⟨m, hm, rfl⟩
  | invshiftrows => obtain ⟨m, hm, rfl⟩ := exec_invshiftrows_next.mp h; exact exec_invshiftrows_next.mpr ⟨m, hm, rfl⟩
  | invmixcolumns => obtain ⟨m, hm, rfl⟩ := exec_invmixcolumns_next.mp h; exact exec_invmixcolumns_next.mpr ⟨m, hm, rfl⟩
  | storeblock => obtain ⟨m, hm, rfl⟩ := exec_storeblock_next.mp h; exact exec_storeblock_next.mpr ⟨m, hm, rfl⟩
  | encode | decode | xtime | gfmult | mul02 | mul03 | mul09 | mul0b | mul0d | mul0e | rcon | subbyte | invsubbyte | subword
  | rotword => exact hi.elim

/-- The micro-operation of alike cores: LOADBLOCK reads the request and makes `ST` alike, KEYEXPAND reads the request and makes `W` alike, and
every other one finds both alike. -/
theorem SameResponse.exec_micro {s s' u : State} {i : Instr} (h : SameResponse s s') (he : s.event = .micro i)
    (hx : exec i s = .next u) :
    ∃ u', exec i s' = .next u' ∧ u'.st = u.st ∧ u'.out = u.out ∧ (s.upc ≠ 0 → u'.w = u.w) := by
  obtain ⟨-, -, hm, -⟩ := event_eq_micro he
  obtain ⟨-, hi, hload, hexpand⟩ := event_micro_fetch he
  obtain ⟨hcmd, hkey, hblock⟩ := h.request hm
  have hout : s'.out = s.out := by rw [h.frame]
  have hpar : s'.params = s.params := by rw [h.frame]
  by_cases h0 : s.upc = 0
  · obtain rfl := hload h0
    obtain ⟨b, hb, rfl⟩ := exec_loadblock_next.mp hx
    exact ⟨_, exec_loadblock_next.mpr ⟨b, hblock.trans hb, rfl⟩, rfl, hout, absurd h0⟩
  by_cases h1 : s.upc = 1
  · obtain rfl := hexpand h1
    obtain ⟨key, hk, hlen, rfl⟩ := exec_keyexpand_next.mp hx
    refine ⟨_, exec_keyexpand_next.mpr ⟨key, hkey.trans hk, by rw [hpar, hlen], rfl⟩, h.st hm h0, hout, fun _ => ?_⟩
    rw [State.writeW_w, State.writeW_w, hpar]
  · have hs' : s' = { s with unit := s'.unit, draws := s'.draws } := by
      rw [h.frame, State.withHistory, hcmd, hkey, hblock, h.st hm h0, h.w hm h0 h1]
    rw [hs']
    exact ⟨_, exec_micro_ignores_unit_draws hi hx _ _, rfl, rfl, fun _ => rfl⟩

/-- A micro step of alike cores: the completion discards what may differ, and the index after 0 has `ST` alike, every later one `W` too. -/
theorem SameResponse.micro {s s' u : State} {i : Instr} (h : SameResponse s s') (he : s.event = .micro i)
    (hx : exec i s = .next u) : ∃ u', exec i s' = .next u' ∧ SameResponse u.endMicro u'.endMicro := by
  obtain ⟨-, -, hm, -⟩ := event_eq_micro he
  obtain ⟨-, hi, -, -⟩ := event_micro_fetch he
  obtain ⟨hcmd, hkey, hblock⟩ := h.request hm
  obtain ⟨u', hx', hst, hout, hw⟩ := h.exec_micro he hx
  have hu' : u' = { u with w := u'.w, unit := s'.unit, draws := s'.draws } := by
    rw [exec_micro_frame hi hx', h.frame, hcmd, hkey, hblock, hst, hout, exec_micro_frame hi hx]
  obtain ⟨-, hupc, -⟩ := exec_micro_mode hi hx
  refine ⟨u', hx', ?_⟩
  unfold State.endMicro
  rcases advance_cases u with ⟨hlt, ha⟩ | ⟨hge, ha⟩
  · have ha' : u'.advance = { u' with upc := u.upc + 1 } := by
      rw [hu']
      exact if_pos hlt
    rw [ha, ha']
    exact {
      bench := rfl
      frame := by rw [hu']; rfl
      request := fun _ => by rw [hu']; exact ⟨rfl, rfl, rfl⟩
      st := fun _ _ => hst
      w := fun _ _ h1 => hw fun h0 => h1 (by simp [hupc, h0]) }
  · have ha' : u'.advance = u'.complete := by
      rw [hu']
      exact if_neg hge
    rw [ha, ha']
    exact .of_not_run nofun rfl (by rw [hu']; rfl)

/-- A step of alike cores leads to alike cores. -/
theorem SameResponse.step {s s' t : State} (h : SameResponse s s') (hs : step s = .next t) :
    ∃ t', Machine.step s' = .next t' ∧ SameResponse t t' := by
  rcases step_cases hs with ⟨he, rfl⟩ | ⟨he, rfl⟩ | ⟨i, u, he, hx, rfl⟩ | ⟨i, u, he, hx, rfl⟩ | ⟨i, u, he, hx, rfl⟩
  · refine ⟨_, step_of_reset (h.event.trans he), .of_not_run nofun rfl ?_⟩
    rw [h.frame]
    rfl
  · obtain ⟨-, -, hm, -⟩ := event_eq_idle he
    refine ⟨_, step_of_idle (h.event.trans he), .of_not_run hm rfl ?_⟩
    rw [h.frame]
    rfl
  · obtain ⟨-, -, hm, -, rfl⟩ := event_eq_command he
    rw [exec_decodeCmd] at hx
    obtain rfl := Host.Outcome.next.inj hx
    refine ⟨_, step_of_command (h.event.trans he) (exec_decodeCmd _ s'), ?_⟩
    exact accept_sameResponse _ hm (by rwa [h.frame]) (by rw [h.frame]) (by rw [h.frame]) (by rw [h.frame])
  · obtain ⟨u', hx', hu⟩ := h.micro he hx
    exact ⟨_, step_of_micro (h.event.trans he) hx', hu⟩
  · obtain ⟨-, f, hb, -⟩ := event_eq_unit he
    rw [h.bench] at hb
    cases hb

theorem SameResponse.run {s s' t : State} {n : Nat} (h : SameResponse s s') (hs : Sys2Proof.core.run n s = .next t) :
    ∃ t', Sys2Proof.core.run n s' = .next t' ∧ SameResponse t t' := by
  induction n generalizing s s' with
  | zero =>
    obtain rfl := Host.Outcome.next.inj hs
    exact ⟨s', rfl, h⟩
  | succ n ih =>
    obtain ⟨u, hstep, hrun⟩ := core_run_succ_next hs
    obtain ⟨u', hstep', hu⟩ := h.step hstep
    rw [core_run_succ_of_next hstep']
    exact ih hu hrun

/-- A step of a core that waits, with a request presented, is the accept step. -/
theorem step_accept {s : State} (hr : s.pins.rst = false) (hb : s.bench = none) (hm : s.mode ≠ .run)
    (hq : s.pins.req = true) : step s = .next (s.accept s.pins.cmd).tick := by
  have he : s.event = .command (decodeCmd s.pins.cmd) := by rw [event_ready hr hb hm, if_pos hq]
  exact step_of_command he (exec_decodeCmd _ s)

/-- Settles O53: the accept step makes the two cores alike, and every step keeps them so. -/
theorem theResponseForgetsTheHistory : Obligations.TheResponseForgetsTheHistory := by
  intro s s' hm hm' hpar hpins hscr hb hb' hr hq n t hrun
  have hstep := step_accept hr hb hm hq
  have hstep' := step_accept (hpins ▸ hr) hb' hm' (hpins ▸ hq)
  obtain ⟨u, hu, hrest⟩ := core_run_succ_next hrun
  obtain rfl := Host.Outcome.next.inj (hstep.symm.trans hu)
  have hsame := accept_sameResponse s.pins.cmd hm hm' hpar.symm hpins.symm hscr.symm
  obtain ⟨t', hrun', ht⟩ := hsame.run hrest
  rw [← hpins] at hstep'
  refine ⟨t', (core_run_succ_of_next hstep').trans hrun', ?_⟩
  rw [ht.frame]
  exact ⟨rfl, rfl, rfl⟩

end Sys2Proof.Machine
end

section
/-! The reserved words (spec R66, R67): which words of the three formats the decoder refuses. -/

namespace Sys2Proof

/-! ### The two fields of a UOP word (R63) -/

theorem uop_opcode_toNat (u : BitVec 8) : (u.extractLsb' 4 4).toNat = u.toNat / 16 := by
  rw [BitVec.extractLsb'_toNat, Nat.shiftRight_eq_div_pow]
  omega

theorem uop_operand_toNat (u : BitVec 8) : (u.extractLsb' 0 4).toNat = u.toNat % 16 := by
  rw [BitVec.extractLsb'_toNat, Nat.shiftRight_zero]

/-! ### What each decoder refuses -/

/-- A word accepted under a condition is refused exactly without it. -/
theorem ite_refuses_iff {c : Prop} [Decidable c] (i : Instr) (r : DecodeReject) :
    (∃ why, (if c then Except.ok i else Except.error r) = Except.error why) ↔ ¬ c := by
  by_cases h : c <;> simp [h]

/-- R64: the opcodes that name no operation without an operand are ADDROUNDKEY's and the reserved ones. -/
theorem plainUop_eq_none_iff : ∀ op : BitVec 4, plainUop op = none ↔ op = 0x2 ∨ 0xA ≤ op.toNat := by decide

/-- ADDROUNDKEY's opcode with operand `u[3:0]`: refused above `Nr` (R66 c). -/
theorem decodeUop_refuses_of_addroundkey (v : Variant) {u : BitVec 8} (h : u.extractLsb' 4 4 = 0x2) :
    (∃ why, decodeUop v u = .error why) ↔ v.nr < (u.extractLsb' 0 4).toNat := by
  simp only [decodeUop, if_pos h, ite_refuses_iff, not_le]

/-- Every other opcode: refused if it names nothing (R66 a) or its operand is not zero (R66 b). -/
theorem decodeUop_refuses_of_plain (v : Variant) {u : BitVec 8} (h : u.extractLsb' 4 4 ≠ 0x2) :
    (∃ why, decodeUop v u = .error why) ↔ 0xA ≤ (u.extractLsb' 4 4).toNat ∨ u.extractLsb' 0 4 ≠ 0 := by
  have hnone : plainUop (u.extractLsb' 4 4) = none ↔ 0xA ≤ (u.extractLsb' 4 4).toNat := by
    rw [plainUop_eq_none_iff, or_iff_right h]
  rw [← hnone]
  simp only [decodeUop, if_neg h]
  cases plainUop (u.extractLsb' 4 4) with
  | none => simp
  | some i => simp only [ite_refuses_iff, reduceCtorEq, false_or]

/-- R66, on the word as a number: the cases by the opcode, ADDROUNDKEY's or another. -/
theorem decodeUop_refuses_iff (v : Variant) (u : BitVec 8) :
    (∃ why, decodeUop v u = .error why) ↔
      (0xA ≤ u.toNat / 16 ∨ (u.toNat / 16 ≠ 2 ∧ u.toNat % 16 ≠ 0) ∨ (u.toNat / 16 = 2 ∧ v.nr < u.toNat % 16)) := by
  have hop : u.extractLsb' 4 4 = 0x2 ↔ u.toNat / 16 = 2 := by
    rw [← uop_opcode_toNat, BitVec.toNat_eq]
    rfl
  have hrnd : u.extractLsb' 0 4 = 0 ↔ u.toNat % 16 = 0 := by
    rw [← uop_operand_toNat, BitVec.toNat_eq]
    rfl
  by_cases h : u.extractLsb' 4 4 = 0x2
  · rw [decodeUop_refuses_of_addroundkey v h, uop_operand_toNat]
    have := hop.mp h
    omega
  · rw [decodeUop_refuses_of_plain v h, uop_opcode_toNat, Ne, hrnd]
    have := mt hop.mpr h
    omega

/-- R67: a label names a unit or is refused by the last arm alone. -/
theorem decodeFunc_refuses_iff (f : BitVec 4) : (∃ why, decodeFunc f = .error why) ↔ 0xD ≤ f.toNat := by
  unfold decodeFunc
  split
  case h_14 =>
    simp only [imp_false] at *
    simp only [Except.error.injEq, exists_eq', true_iff]
    omega
  all_goals simp [*]

/-- Settles O33: the UOP words by their opcode, the labels by the arms of the decoder; both CMD words name a command. -/
theorem reservedWordsAreRefused : Obligations.ReservedWordsAreRefused :=
  ⟨decodeUop_refuses_iff, fun _ => decodeFunc_refuses_iff, fun _ c => ⟨decodeCmd c, rfl⟩⟩

end Sys2Proof
end

section
/-! GF(2^8) arithmetic (spec file 40): XTIME as a doubling, GFMULT as the product of a field, RCON as a power of x. -/

namespace Sys2Proof.Machine

/-! ### XTIME (R80) -/

theorem xtime_eq_ite (v : Byte) : xtime v = if v.getLsbD 7 then (v <<< 1) ^^^ 0x1B else v <<< 1 := by
  have hbit : (v.setWidth 9 <<< 1).getLsbD 8 = v.getLsbD 7 := by simp
  have hmask : (v.setWidth 9 <<< 1).setWidth 8 = v <<< 1 := by bv_omega
  simp only [xtime, hbit, hmask]

theorem xtime_xor (a b : Byte) : xtime (a ^^^ b) = xtime a ^^^ xtime b := by
  simp only [xtime_eq_ite, BitVec.getLsbD_xor, BitVec.shiftLeft_xor_distrib]
  cases a.getLsbD 7 <;> cases b.getLsbD 7
  · rfl
  · exact BitVec.xor_assoc ..
  · show (a <<< 1 ^^^ b <<< 1) ^^^ 0x1B = (a <<< 1 ^^^ 0x1B) ^^^ b <<< 1
    ac_rfl
  · have hcancel : (a <<< 1 ^^^ 0x1B) ^^^ (b <<< 1 ^^^ 0x1B) = (a <<< 1 ^^^ b <<< 1) ^^^ (0x1B ^^^ 0x1B) := by ac_rfl
    exact (hcancel.trans (BitVec.xor_zero ..)).symm

theorem exec_xtime (s : State) : exec .xtime s = .next (s.showing (.byte (xtime s.unit.a))) := rfl

/-- Settles O1: the unit shows XTIME of its operand, and the bit shifted out of the operand is its bit 7. -/
theorem xtimeDoublesItsOperand : Obligations.XtimeDoublesItsOperand :=
  ⟨rfl, fun s => by rw [exec_xtime, xtime_eq_ite]⟩

/-! ### The loop of GFMULT (R81) -/

/-- One iteration of the loop, on its three variables: the sum so far, the operand doubled, the operand halved. -/
def gfRound (q : Byte × Byte × Byte) : Byte × Byte × Byte :=
  (if q.2.2.getLsbD 0 then q.1 ^^^ q.2.1 else q.1, xtime q.2.1, q.2.2 >>> 1)

theorem gfLoop_length_eq_foldl {α : Type} (l : List α) (q : Byte × Byte × Byte) :
    gfLoop l.length q.1 q.2.1 q.2.2 = (l.foldl (fun q _ => gfRound q) q).1 := by
  induction l generalizing q with
  | nil => rfl
  | cons _ _ ih => exact ih (gfRound q)

theorem gfMult_eq_foldl (a b : Byte) : gfMult a b = ((List.range 8).foldl (fun q _ => gfRound q) (0, a, b)).1 :=
  gfLoop_length_eq_foldl (List.range 8) (0, a, b)

/-- The loop is linear in the sum so far and the doubled operand. -/
theorem gfLoop_xor (n : Nat) (p q a c b : Byte) :
    gfLoop n (p ^^^ q) (a ^^^ c) b = gfLoop n p a b ^^^ gfLoop n q c b := by
  induction n generalizing p q a c b with
  | zero => rfl
  | succ n ih =>
    simp only [gfLoop, xtime_xor]
    cases b.getLsbD 0 with
    | false => exact ih ..
    | true =>
      have hswap : (p ^^^ q) ^^^ (a ^^^ c) = (p ^^^ a) ^^^ (q ^^^ c) := by ac_rfl
      simp only [if_true, hswap, ih]

/-- A map that respects XOR and XTIME can be applied before the loop as well as after it. -/
theorem map_gfLoop {f : Byte → Byte} (hxor : ∀ a b, f (a ^^^ b) = f a ^^^ f b) (hx : ∀ a, f (xtime a) = xtime (f a))
    (n : Nat) (p a b : Byte) : f (gfLoop n p a b) = gfLoop n (f p) (f a) b := by
  induction n generalizing p a b with
  | zero => rfl
  | succ n ih => simp only [gfLoop, ih, hx, apply_ite f, hxor]

/-! ### The product (R81) -/

theorem gfMult_xor_left (a b c : Byte) : gfMult (a ^^^ b) c = gfMult a c ^^^ gfMult b c := gfLoop_xor 8 0 0 a b c

theorem zero_gfMult (b : Byte) : gfMult 0 b = 0 := by
  simpa using gfMult_xor_left 0 0 b

theorem gfMult_xtime_left (a b : Byte) : gfMult (xtime a) b = xtime (gfMult a b) :=
  (map_gfLoop xtime_xor (fun _ => rfl) 8 0 a b).symm

/-- Checked at each of the 256 bytes. -/
theorem one_gfMult : ∀ b : Byte, gfMult 1 b = b := by decide

/-- Multiplying by `c` respects XOR and XTIME, so it can be done before multiplying by `b`. -/
theorem gfMult_right_comm (a b c : Byte) : gfMult (gfMult a b) c = gfMult (gfMult a c) b := by
  have h := map_gfLoop (f := (gfMult · c)) (gfMult_xor_left · · c) (gfMult_xtime_left · c) 8 0 a b
  rwa [zero_gfMult] at h

theorem gfMult_comm (a b : Byte) : gfMult a b = gfMult b a := by
  have h := gfMult_right_comm 1 a b
  rwa [one_gfMult, one_gfMult] at h

theorem gfMult_assoc (a b c : Byte) : gfMult (gfMult a b) c = gfMult a (gfMult b c) := by
  rw [gfMult_comm a b, gfMult_right_comm, gfMult_comm]

theorem gfMult_zero (a : Byte) : gfMult a 0 = 0 := by rw [gfMult_comm, zero_gfMult]

theorem gfMult_one (a : Byte) : gfMult a 1 = a := by rw [gfMult_comm, one_gfMult]

/-! ### The generator 3: no product of two non-zero bytes is zero -/

/-- A list in which every byte occurs, as its mask says. -/
theorem mem_of_byteMask {l : List Byte} (hm : byteMask l = 2 ^ 256 - 1) (a : Byte) : a ∈ l := by
  have ha : (byteMask l).testBit a.toNat = true := by
    rw [hm, Nat.testBit_two_pow_sub_one]
    exact decide_eq_true a.isLt
  obtain ⟨c, hc, e⟩ := (testBit_byteMask l a.toNat).mp ha
  rwa [← BitVec.toNat_inj.mp e]

/-- Zero and the first 255 powers of 3 are all the bytes. -/
theorem byteMask_powers_three : byteMask (0 :: List.iterate (gfMult 3) 1 255) = 2 ^ 256 - 1 := by decide +kernel

theorem exists_power_three {a : Byte} (ha : a ≠ 0) : ∃ k, a = (gfMult 3)^[k] 1 := by
  rcases List.mem_cons.mp (mem_of_byteMask byteMask_powers_three a) with h | h
  · exact absurd h ha
  · obtain ⟨k, -, hk⟩ := List.mem_iterate.mp h
    exact ⟨k, hk⟩

/-- Multiplying by the power `k` of 3 is multiplying `k` times by 3. -/
theorem power_three_gfMult (k : Nat) (b : Byte) : gfMult ((gfMult 3)^[k] 1) b = (gfMult 3)^[k] b := by
  have h : Function.Semiconj (gfMult · b) (gfMult 3) (gfMult 3) := fun a => gfMult_assoc 3 a b
  simpa only [one_gfMult] using h.iterate_right k 1

/-- The inverse of 3 is 0xF6. -/
theorem gfMult_three_injective : Function.Injective (gfMult 3) :=
  Function.LeftInverse.injective (g := gfMult 0xF6) fun b => by
    have h3 : gfMult 0xF6 3 = 1 := by decide
    rw [← gfMult_assoc, h3, one_gfMult]

theorem gfMult_ne_zero {a b : Byte} (ha : a ≠ 0) (hb : b ≠ 0) : gfMult a b ≠ 0 := by
  obtain ⟨k, rfl⟩ := exists_power_three ha
  rw [power_three_gfMult]
  intro h
  exact hb (gfMult_three_injective.iterate k (h.trans (Function.iterate_fixed (gfMult_zero 3) k).symm))

theorem exec_gfmult (s : State) : exec .gfmult s = .next (s.showing (.byte (gfMult s.unit.a s.unit.b))) := rfl

/-- Settles O2: multiplication is linear and respects XTIME, which makes it commutative and associative; every non-zero
byte is a power of 3, which has an inverse, so none divides zero. -/
theorem gfmultIsTheFieldProduct : Obligations.GfmultIsTheFieldProduct :=
  ⟨rfl, fun s => by rw [exec_gfmult, gfMult_eq_foldl]; rfl, exec_gfmult, gfMult_comm, gfMult_assoc,
    fun a => ⟨gfMult_one a, one_gfMult a, gfMult_zero a, zero_gfMult a⟩, fun _ _ => gfMult_ne_zero⟩

/-! ### RCON (R90) -/

theorem xPower_eq_iterate (n : Nat) : xPower n = xtime^[n] 1 := by
  induction n with
  | zero => rfl
  | succ n ih => rw [Function.iterate_succ_apply', ← ih, xPower]

theorem wordOf_top (b : Byte) : wordOf b 0 0 0 = b.setWidth 32 <<< 24 := by
  apply BitVec.eq_of_toNat_eq
  have h0 : (0 : Byte).toNat = 0 := rfl
  rw [wordOf_toNat, h0, BitVec.toNat_shiftLeft, BitVec.toNat_setWidth, Nat.shiftLeft_eq]
  omega

theorem rcon_eq_iterate (i : Nat) (h : 1 ≤ i) : rcon i h = (xtime^[i - 1] 1).setWidth 32 <<< 24 := by
  rw [rcon, xPower_eq_iterate, wordOf_top]

theorem exec_rcon {s : State} (h : 1 ≤ s.unit.i) : exec .rcon s = .next (s.showing (.word (rcon s.unit.i h))) :=
  dif_pos h

theorem exec_rcon_zero {s : State} (h : s.unit.i = 0) : exec .rcon s = .refused .rconZero :=
  dif_neg (by omega)

/-- Settles O6: within its domain RCON's word is the power of x in the top byte; at 0 the unit's test of the domain fails. -/
theorem rconOfItsDomain : Obligations.RconOfItsDomain :=
  ⟨rfl, fun s h => by rw [exec_rcon h, rcon_eq_iterate], fun _ => exec_rcon_zero⟩

end Sys2Proof.Machine
end

section
/-! Substitution and the word helpers of the key schedule (spec file 41): the two lookups are inverse permutations of the bytes, SUBWORD acts byte by
byte, ROTWORD moves each byte one place. -/

namespace Sys2Proof.Machine

/-! ### The two lookups (R100, R101) -/

/-- R44: row the high nibble, column the low, is the flat index. -/
@[simp] theorem tableIndex_eq_toNat (b : Byte) : tableIndex b = b.toNat := by
  rw [tableIndex, uop_opcode_toNat, uop_operand_toNat]
  omega

/-- The table has an entry at every byte, and SUBBYTE is that entry. -/
theorem bytes_getElem? (t : SubstTable) (b : Byte) : t.bytes[b.toNat]? = some (subByte t b) := by
  have hlt : b.toNat < t.bytes.length := t.legal.1.symm ▸ b.isLt
  rw [subByte, tableIndex_eq_toNat, List.getD_eq_getElem _ _ hlt, List.getElem?_eq_getElem hlt]

theorem invSubByte_eq_idxOf (t : SubstTable) (b : Byte) : invSubByte t b = BitVec.ofNat 8 (t.bytes.idxOf b) := by
  rw [invSubByte, invTable, tableIndex_eq_toNat, BitVec.ofNat_toNat, BitVec.setWidth_eq]

/-- No entry of a legal table stands at two places, so the entry at `b` is found at `b`. -/
theorem idxOf_subByte (t : SubstTable) (b : Byte) : t.bytes.idxOf (subByte t b) = b.toNat := by
  obtain ⟨hlt, he⟩ := List.getElem?_eq_some_iff.mp (bytes_getElem? t b)
  rw [← he, t.legal.2.idxOf_getElem]

theorem exec_subbyte (s : State) : exec .subbyte s = .next (s.showing (.byte (subByte s.params.sbox s.unit.a))) := rfl

theorem exec_invsubbyte (s : State) :
    exec .invsubbyte s = .next (s.showing (.byte (invSubByte s.params.sbox s.unit.a))) := rfl

/-! ### They undo each other (R102) -/

@[simp] theorem invSubByte_subByte (t : SubstTable) (b : Byte) : invSubByte t (subByte t b) = b := by
  rw [invSubByte_eq_idxOf, idxOf_subByte, BitVec.ofNat_toNat, BitVec.setWidth_eq]

/-- A map of the finitely many bytes that has a left inverse is one-to-one, so it is onto. -/
theorem subByte_bijective (t : SubstTable) : Function.Bijective (subByte t) :=
  Finite.injective_iff_bijective.mp (Function.LeftInverse.injective (invSubByte_subByte t))

@[simp] theorem subByte_invSubByte (t : SubstTable) (b : Byte) : subByte t (invSubByte t b) = b :=
  Function.LeftInverse.rightInverse_of_surjective (invSubByte_subByte t) (subByte_bijective t).surjective b

/-- Settles O8: the unit shows the entry at the flat index of its operand. -/
theorem subbyteReadsTheTable : Obligations.SubbyteReadsTheTable :=
  ⟨rfl, fun s => ⟨_, bytes_getElem? s.params.sbox s.unit.a, exec_subbyte s⟩⟩

/-- Settles O9: the entry at the byte shown is SUBBYTE of it, which is the operand. -/
theorem invsubbyteInvertsTheTable : Obligations.InvsubbyteInvertsTheTable :=
  ⟨rfl, fun s => ⟨_, by rw [bytes_getElem?, subByte_invSubByte], exec_invsubbyte s⟩⟩

/-- Settles O10: the inverse lookup finds each entry where it stands, and a one-to-one map of the bytes is onto. -/
theorem substitutionsAreMutuallyInverse : Obligations.SubstitutionsAreMutuallyInverse :=
  ⟨fun s => ⟨exec_subbyte s, exec_invsubbyte s⟩,
    fun t => ⟨fun b => ⟨invSubByte_subByte t b, subByte_invSubByte t b⟩, subByte_bijective t⟩⟩

/-! ### The identity table (R107) -/

theorem subByte_sboxId (b : Byte) : subByte sboxId b = b := by
  have he : sboxId.bytes[b.toNat]? = some b := by
    rw [sboxId, List.getElem?_map, List.getElem?_range b.isLt, Option.map_some, BitVec.ofNat_toNat, BitVec.setWidth_eq]
  exact Option.some.inj ((bytes_getElem? sboxId b).symm.trans he)

theorem invSubByte_sboxId (b : Byte) : invSubByte sboxId b = b := by
  simpa only [subByte_sboxId] using invSubByte_subByte sboxId b

/-- Settles O57: SUBBYTE by the table's entries, INVSUBBYTE because it undoes SUBBYTE. -/
theorem theIdentityTableSubstitutesNothing : Obligations.TheIdentityTableSubstitutesNothing :=
  fun b => ⟨subByte_sboxId b, invSubByte_sboxId b⟩

/-! ### SUBWORD (R104) -/

theorem wordByte_toNat (w : Word) (r : Fin 4) : (wordByte w r).toNat = w.toNat / 2 ^ (24 - 8 * r.val) % 2 ^ 8 := by
  rw [wordByte, BitVec.extractLsb'_toNat, Nat.shiftRight_eq_div_pow]

/-- Each byte of a word is the one it was made of (R13). -/
theorem wordByte_wordOf (f : Fin 4 → Byte) (r : Fin 4) : wordByte (wordOf (f 0) (f 1) (f 2) (f 3)) r = f r := by
  apply BitVec.eq_of_toNat_eq
  rw [wordByte_toNat, wordOf_toNat]
  match r with
  | 0 | 1 | 2 | 3 => norm_num; omega

theorem wordByte_subWord (t : SubstTable) (w : Word) (r : Fin 4) :
    wordByte (subWord t w) r = subByte t (wordByte w r) :=
  wordByte_wordOf (fun r => subByte t (wordByte w r)) r

theorem exec_subword (s : State) : exec .subword s = .next (s.showing (.word (subWord s.params.sbox s.unit.w))) := rfl

/-- Settles O11: each byte of the word shown is SUBBYTE of the operand's byte in its place, which is that byte's entry. -/
theorem subwordSubstitutesEachByte : Obligations.SubwordSubstitutesEachByte :=
  ⟨rfl, fun s => ⟨_, exec_subword s, fun r =>
    (bytes_getElem? s.params.sbox (wordByte s.unit.w r)).trans (congrArg some (wordByte_subWord ..).symm)⟩⟩

/-! ### ROTWORD (R105) -/

theorem rotWord_eq_rotateLeft (w : Word) : rotWord w = w.rotateLeft 8 := rfl

theorem wordOf_wordByte (w : Word) : wordOf (wordByte w 0) (wordByte w 1) (wordByte w 2) (wordByte w 3) = w :=
  wordOf_extractLsb' w

/-- The byte pattern of the rotation: what leaves the top comes back below the rest. -/
theorem rotWord_wordOf (b0 b1 b2 b3 : Byte) : rotWord (wordOf b0 b1 b2 b3) = wordOf b1 b2 b3 b0 := by
  have hlow : (wordOf b0 b1 b2 b3).toNat <<< 8 % 2 ^ 32 = (b1.toNat * 2 ^ 16 + b2.toNat * 2 ^ 8 + b3.toNat) <<< 8 := by
    rw [wordOf_toNat, Nat.shiftLeft_eq, Nat.shiftLeft_eq]
    omega
  have htop : (wordOf b0 b1 b2 b3).toNat >>> 24 = b0.toNat := by
    rw [wordOf_toNat, Nat.shiftRight_eq_div_pow]
    omega
  apply BitVec.eq_of_toNat_eq
  rw [rotWord, BitVec.toNat_or, BitVec.toNat_shiftLeft, BitVec.toNat_ushiftRight, hlow, htop,
    ← Nat.shiftLeft_add_eq_or_of_lt b0.isLt, Nat.shiftLeft_eq, wordOf_toNat]
  omega

theorem wordByte_rotWord (w : Word) (r : Fin 4) : wordByte (rotWord w) r = wordByte w (r + 1) := by
  conv_lhs => rw [← wordOf_wordByte w, rotWord_wordOf]
  exact wordByte_wordOf (fun r => wordByte w (r + 1)) r

theorem rotWord_four (w : Word) : rotWord (rotWord (rotWord (rotWord w))) = w := by
  rw [← wordOf_wordByte w]
  simp only [rotWord_wordOf]

theorem exec_rotword (s : State) : exec .rotword s = .next (s.showing (.word (rotWord s.unit.w))) := rfl

/-- Settles O12: the shifts joined are the rotation by eight bits, which moves each of the four bytes one place up. -/
theorem rotwordRotatesLeftByOneByte : Obligations.RotwordRotatesLeftByOneByte :=
  ⟨rfl, fun s => by rw [exec_rotword, rotWord_eq_rotateLeft], wordByte_rotWord, rotWord_four⟩

end Sys2Proof.Machine
end

section
/-! The key schedule expander (spec file 42): expansion keeps the words it starts from, and every word it adds obeys the recurrence of R122. -/

namespace Sys2Proof.Machine

/-! ### The loaded words (R121) -/

/-- Byte `r` of loaded word `i` is byte `4*i + r` of a key of the variant's length. -/
theorem wordByte_loadKey {v : Variant} {key : List Byte} (hlen : key.length = v.keyBytes) {i : Nat} (hi : i < v.nk)
    (h : i < (loadKey v key).length) (r : Fin 4) : key[4 * i + r.val]? = some (wordByte (loadKey v key)[i] r) := by
  have hlt : 4 * i + r.val < key.length := by
    rw [hlen, Variant.keyBytes]
    omega
  have hword : wordByte (loadKey v key)[i] r = key.getD (4 * i + r.val) 0 := by
    simp only [loadKey, List.getElem_map, List.getElem_range]
    exact wordByte_wordOf (fun q => key.getD (4 * i + q.val) 0) r
  rw [hword, List.getElem?_eq_getElem hlt, List.getD_eq_getElem _ _ hlt]

/-- Expansion only appends. -/
theorem prefix_expandFrom (v : Variant) (t : SubstTable) (n : Nat) (ws : List Word) (h : v.nk ≤ ws.length) :
    ws <+: expandFrom v t n ws h := by
  induction n generalizing ws with
  | zero => exact List.prefix_rfl
  | succ n ih => exact (List.prefix_append ws _).trans (ih ..)

theorem loadKey_prefix_keyExpand (v : Variant) (t : SubstTable) (key : List Byte) :
    loadKey v key <+: keyExpand v t key := prefix_expandFrom ..

/-! ### The recurrence (R122) -/

/-- The words past the first `Nk` obey R122: each is the word `Nk` before it XOR the temp of R123. -/
def Recurrence (v : Variant) (t : SubstTable) (ws : List Word) : Prop :=
  ∀ (i : Nat) (hi : v.nk ≤ i) (_ : i < ws.length), ws[i] = ws[i - v.nk] ^^^ expandTemp v t i hi ws[i - 1]

/-- The loaded words have none past the first `Nk`. -/
theorem recurrence_loadKey (v : Variant) (t : SubstTable) (key : List Byte) : Recurrence v t (loadKey v key) := by
  intro i hi h
  rw [length_loadKey] at h
  omega

/-- The next word obeys the recurrence by its definition, and the two words it reads lie before it. -/
theorem Recurrence.append_expandWord {v : Variant} {t : SubstTable} {ws : List Word} (hr : Recurrence v t ws)
    (h : v.nk ≤ ws.length) : Recurrence v t (ws ++ [expandWord v t ws h]) := by
  intro i hi hlt
  have hpos := nk_pos v
  rw [List.length_append, List.length_singleton] at hlt
  rw [List.getElem_append_left (show i - v.nk < ws.length by omega),
    List.getElem_append_left (show i - 1 < ws.length by omega)]
  rcases Nat.lt_succ_iff_lt_or_eq.mp hlt with hlt' | rfl
  · rw [List.getElem_append_left hlt']
    exact hr i hi hlt'
  · rw [List.getElem_concat_length rfl]
    rfl

theorem Recurrence.expandFrom {v : Variant} {t : SubstTable} (n : Nat) {ws : List Word} (hr : Recurrence v t ws)
    (h : v.nk ≤ ws.length) : Recurrence v t (expandFrom v t n ws h) := by
  induction n generalizing ws with
  | zero => exact hr
  | succ n ih => exact ih (hr.append_expandWord h) _

theorem recurrence_keyExpand (v : Variant) (t : SubstTable) (key : List Byte) : Recurrence v t (keyExpand v t key) :=
  (recurrence_loadKey v t key).expandFrom _ _

/-! ### The temp (R123) -/

/-- Only the AES256 key has eight words (R7). -/
theorem nk_eq_eight_iff (v : Variant) : v.nk = 8 ↔ v = .aes256 := by cases v <;> decide

/-- The three cases of R123 with RCON's word written out (R90). -/
theorem expandTemp_eq (v : Variant) (t : SubstTable) (i : Nat) (hi : v.nk ≤ i) (temp : Word) :
    expandTemp v t i hi temp =
      if i % v.nk = 0 then subWord t (rotWord temp) ^^^ ((xtime^[i / v.nk - 1] 1).setWidth 32 <<< 24)
      else if v = .aes256 ∧ i % v.nk = 4 then subWord t temp
      else temp := by
  simp only [expandTemp, rcon_eq_iterate, nk_eq_eight_iff]

/-! ### KEYEXPAND (R120) -/

/-- Settles O14: the first words are the loaded ones, which expansion keeps, and every later word obeys the recurrence. -/
theorem keyexpandWritesTheSchedule : Obligations.KeyexpandWritesTheSchedule := by
  refine ⟨rfl, fun s key hkey hlen => ?_⟩
  refine ⟨keyExpand s.params.variant s.params.sbox key, exec_keyexpand_next.mpr ⟨key, hkey, hlen, rfl⟩,
    length_keyExpand .., ?_, ?_⟩
  · intro i hi x hx r
    have hload : i < (loadKey s.params.variant key).length := by rwa [length_loadKey]
    obtain ⟨-, rfl⟩ := List.getElem?_eq_some_iff.mp hx
    rw [← (loadKey_prefix_keyExpand _ _ key).getElem hload]
    exact wordByte_loadKey hlen hi hload r
  · intro i hi _ x prev old hx hprev hold
    obtain ⟨hlt, rfl⟩ := List.getElem?_eq_some_iff.mp hx
    obtain ⟨-, rfl⟩ := List.getElem?_eq_some_iff.mp hprev
    obtain ⟨-, rfl⟩ := List.getElem?_eq_some_iff.mp hold
    rw [← expandTemp_eq _ _ i hi]
    exact recurrence_keyExpand _ _ key i hi hlt

end Sys2Proof.Machine
end

section
/-! The forward round transformations (spec file 43): each operation on a matrix that `ST` holds, in the form its rule gives it. -/

namespace Sys2Proof.Machine

/-! ### What the four micro-operations answer where `ST` holds a matrix -/

section ExecOfMatrix

variable {s : State} {m : Grid Byte} (hst : s.st = m.map some)
include hst

theorem exec_addroundkey_of_st {rnd : BitVec 4} {k : Quad Word} (hrnd : rnd.toNat ≤ s.params.variant.nr)
    (hk : ∀ c : Fin 4, s.w[nb * rnd.toNat + c.val]? = some (some (k.get c))) :
    exec (.addroundkey rnd) s = .next (s.holding (addRoundKey k m)) :=
  exec_addroundkey_next.mpr ⟨hrnd, m, k, hst, hk, rfl⟩

theorem exec_subbytes_of_st : exec .subbytes s = .next (s.holding (subBytes s.params.sbox m)) :=
  exec_subbytes_next.mpr ⟨m, hst, rfl⟩

theorem exec_shiftrows_of_st : exec .shiftrows s = .next (s.holding (shiftRows m)) :=
  exec_shiftrows_next.mpr ⟨m, hst, rfl⟩

theorem exec_mixcolumns_of_st : exec .mixcolumns s = .next (s.holding (mixColumns m)) :=
  exec_mixcolumns_next.mpr ⟨m, hst, rfl⟩

end ExecOfMatrix

/-! ### ADDROUNDKEY (R140) -/

/-- R63: the word of ADDROUNDKEY is its opcode in the high nibble or its operand in the low one. -/
theorem addroundkey_word : ∀ rnd : BitVec 4, 0x2#4 ++ rnd = 0x20#8 ||| rnd.setWidth 8 := by decide

/-- R13 as a shift: byte `r` of a word stands in its low bits once what is below is shifted out. -/
theorem wordByte_eq_ushiftRight (w : Word) (r : Fin 4) : wordByte w r = (w >>> (24 - 8 * r.val)).setWidth 8 := rfl

/-- Settles O16: the round key is read from the four words given, and byte `r` of its word `c` is that word shifted. -/
theorem addroundkeyXorsTheRoundKey : Obligations.AddroundkeyXorsTheRoundKey := by
  refine ⟨fun rnd => congrArg EncWord.uop (addroundkey_word rnd), fun s rnd m k hrnd hst hk => ?_⟩
  simp only [exec_addroundkey_of_st hst hrnd hk, addRoundKey, wordByte_eq_ushiftRight]

/-! ### SUBBYTES (R141) -/

/-- Settles O18: the entry of `subBytes` in each place is SUBBYTE of the old one, which is the table's entry at it. -/
theorem subbytesSubstitutesEachByte : Obligations.SubbytesSubstitutesEachByte := by
  refine ⟨rfl, fun s m hst => ⟨subBytes s.params.sbox m, exec_subbytes_of_st hst, fun r c => ?_⟩⟩
  rw [subBytes, Grid.cell_ofFn, bytes_getElem?]

/-! ### SHIFTROWS (R142) -/

/-- Settles O20: the sums of column and row mod 4, written out place by place, are the rule's table. -/
theorem shiftrowsRotatesRowsLeft : Obligations.ShiftrowsRotatesRowsLeft :=
  ⟨rfl, fun _ _ hst => exec_shiftrows_of_st hst⟩

/-! ### MIXCOLUMNS (R143) -/

/-- The first of four summands may stand last. -/
theorem xor_rotate (a b c d : Byte) : a ^^^ b ^^^ c ^^^ d = b ^^^ c ^^^ d ^^^ a := by ac_rfl

/-- Each row of the matrix of R143 is the row above it moved one place to the right, so its four summands are those of the
circulant from the diagonal on, moved round. -/
theorem mixColumn_get (f : Fin 4 → Byte) (r : Fin 4) :
    (mixColumn (f 0) (f 1) (f 2) (f 3)).get r =
      gfMult 0x02 (f r) ^^^ gfMult 0x03 (f (r + 1)) ^^^ f (r + 2) ^^^ f (r + 3) := by
  match r with
  | 0 => rfl
  | 1 => exact xor_rotate ..
  | 2 => exact (xor_rotate ..).trans (xor_rotate ..)
  | 3 => exact (xor_rotate ..).symm

/-- Settles O22: the four bytes of a column mix by the circulant, in every column. -/
theorem mixcolumnsMultipliesByTheCirculant : Obligations.MixcolumnsMultipliesByTheCirculant := by
  refine ⟨rfl, fun s m hst => ?_⟩
  have hcol (r c : Fin 4) := mixColumn_get (fun i => m.cell i c) r
  simp only [exec_mixcolumns_of_st hst, mixColumns, hcol]

end Sys2Proof.Machine
end

section
/-! The inverse round transformations (spec file 44): each operation on a matrix that `ST` holds, in the form its rule gives it. -/

namespace Sys2Proof.Machine

/-! ### What the three micro-operations answer where `ST` holds a matrix -/

section ExecInverseOfMatrix

variable {s : State} {m : Grid Byte} (hst : s.st = m.map some)
include hst

theorem exec_invsubbytes_of_st : exec .invsubbytes s = .next (s.holding (invSubBytes s.params.sbox m)) :=
  exec_invsubbytes_next.mpr ⟨m, hst, rfl⟩

theorem exec_invshiftrows_of_st : exec .invshiftrows s = .next (s.holding (invShiftRows m)) :=
  exec_invshiftrows_next.mpr ⟨m, hst, rfl⟩

theorem exec_invmixcolumns_of_st : exec .invmixcolumns s = .next (s.holding (invMixColumns m)) :=
  exec_invmixcolumns_next.mpr ⟨m, hst, rfl⟩

end ExecInverseOfMatrix

/-! ### INVSHIFTROWS (R160) -/

/-- Settles O21: the differences of column and row mod 4, written out place by place, are the rule's table. -/
theorem invshiftrowsRotatesRowsRight : Obligations.InvshiftrowsRotatesRowsRight :=
  ⟨rfl, fun _ _ hst => exec_invshiftrows_of_st hst⟩

/-! ### INVSUBBYTES (R161) -/

/-- Settles O19: the byte in each place is INVSUBBYTE of the old one, and the table's entry at it is SUBBYTE of it, the old byte. -/
theorem invsubbytesSubstitutesEachByteBack : Obligations.InvsubbytesSubstitutesEachByteBack := by
  refine ⟨rfl, fun s m hst => ⟨invSubBytes s.params.sbox m, exec_invsubbytes_of_st hst, fun r c => ?_⟩⟩
  rw [invSubBytes, Grid.cell_ofFn, bytes_getElem?, subByte_invSubByte]

/-! ### INVMIXCOLUMNS (R162) -/

/-- The rows of the matrix of R162 are rotations of its first, as those of R143 are: from the diagonal on, the coefficients are
0E, 0B, 0D, 09 in every row. -/
theorem invMixColumn_get (f : Fin 4 → Byte) (r : Fin 4) :
    (invMixColumn (f 0) (f 1) (f 2) (f 3)).get r =
      gfMult 0x0E (f r) ^^^ gfMult 0x0B (f (r + 1)) ^^^ gfMult 0x0D (f (r + 2)) ^^^ gfMult 0x09 (f (r + 3)) := by
  match r with
  | 0 => rfl
  | 1 => exact xor_rotate ..
  | 2 => exact (xor_rotate ..).trans (xor_rotate ..)
  | 3 => exact (xor_rotate ..).symm

/-- Settles O23: the four bytes of a column mix by the inverse circulant, in every column. -/
theorem invmixcolumnsMultipliesByTheInverseCirculant : Obligations.InvmixcolumnsMultipliesByTheInverseCirculant := by
  refine ⟨rfl, fun s m hst => ?_⟩
  have hcol (r c : Fin 4) := invMixColumn_get (fun i => m.cell i c) r
  simp only [exec_invmixcolumns_of_st hst, invMixColumns, hcol]

end Sys2Proof.Machine
end

section
/-! The block codec and the micro-program it runs (spec file 45): the two conversions (R180, R181), the listing of PROGRAM (R184), and
the micro step (R186, R187). -/

namespace Sys2Proof.Machine

/-! ### The two conversions (R180, R181) -/

/-- Settles O27: byte `r + 4*c` for row `r` and column `c`, written out place by place, is the table of R41. -/
theorem loadblockIsColumnMajor : Obligations.LoadblockIsColumnMajor :=
  ⟨rfl, fun _ b hb => exec_loadblock_next.mpr ⟨b, hb, rfl⟩⟩

/-- The column-major index `r + 4*c` splits back into its row and its column (R41). -/
theorem storeBlock_get (m : Grid Byte) (r c : Fin 4) : (storeBlock m).get ⟨r.val + 4 * c.val, by omega⟩ = m.cell r c := by
  have hr : (⟨(r.val + 4 * c.val) % 4, by omega⟩ : Fin 4) = r := Fin.ext (by simp only; omega)
  have hc : (⟨(r.val + 4 * c.val) / 4, by omega⟩ : Fin 4) = c := Fin.ext (by simp only; omega)
  simp only [storeBlock, Seq16.get_ofFn, hr, hc]

/-- Settles O28: STOREBLOCK writes `storeBlock` of the matrix, whose byte at each column-major index is the entry there. -/
theorem storeblockIsColumnMajor : Obligations.StoreblockIsColumnMajor :=
  ⟨rfl, fun _ m hst => ⟨storeBlock m, exec_storeblock_next.mpr ⟨m, hst, rfl⟩, storeBlock_get m⟩⟩

/-! ### The listing of PROGRAM (R184)

Either program is three words, a group of four words for each of the rounds 1 to `Nr - 1`, and four words more. -/

section Rounds

variable {α : Type} {head tail : List α} {group : Nat → List α} (hhead : head.length = 3)
  (hgroup : ∀ j, (group j).length = 4)
include hhead hgroup

/-- After the head and `n` groups stands the tail. -/
theorem drop_rounds (n : Nat) : (head ++ (List.range n).flatMap group ++ tail).drop (3 + 4 * n) = tail :=
  List.drop_left' (by simp [hhead, hgroup, List.length_flatMap, Nat.mul_comm])

/-- Round `r` has group `r - 1`, which stands after the head and the `r - 1` groups before it: to these, all that follows is the tail. -/
theorem take_drop_rounds {n r : Nat} (h1 : 1 ≤ r) (hr : r ≤ n) :
    ((head ++ (List.range n).flatMap group ++ tail).drop (4 * r - 1)).take 4 = group (r - 1) := by
  obtain ⟨j, rfl⟩ := Nat.exists_eq_add_of_le' h1
  obtain ⟨m, rfl⟩ := Nat.exists_eq_add_of_le hr
  have hindex : 4 * (j + 1) - 1 = 3 + 4 * j := by omega
  have hsplit : (List.range (j + 1 + m)).flatMap group =
      (List.range j).flatMap group ++ (group j ++ ((List.range m).map (j + 1 + ·)).flatMap group) := by
    simp [List.range_add, List.range_succ, List.flatMap_append]
  rw [hindex, hsplit, ← List.append_assoc head, List.append_assoc _ _ tail, drop_rounds hhead hgroup, List.append_assoc,
    List.take_left' (hgroup j), Nat.add_sub_cancel]

end Rounds

/-- Settles O34: each round's words are its group, the first of them at index `4*r - 1`; the last four words are the tail. -/
theorem programListing : Obligations.ProgramListing := by
  intro v
  have hnr : 4 * v.nr - 1 = 3 + 4 * (v.nr - 1) := by cases v <;> rfl
  refine ⟨length_program v 0, length_program v 1, rfl, rfl, fun r h1 hr => ?_, fun r h1 hr => ?_, ?_, ?_⟩
  · exact (take_drop_rounds rfl (fun _ => rfl) h1 hr).trans (by rw [Nat.sub_add_cancel h1])
  · exact (take_drop_rounds rfl (fun _ => rfl) h1 hr).trans (by rw [Nat.sub_add_cancel h1])
  · rw [hnr]
    exact drop_rounds rfl (fun _ => rfl) _
  · rw [hnr]
    exact drop_rounds rfl (fun _ => rfl) _

/-! ### The micro step (R186, R187) -/

/-- The event in RUN, where the word at `UPC` of the command's program decodes. -/
theorem microEvent_of_fetch {s : State} {c : BitVec 1} {u : BitVec 8} {i : Instr} (hc : s.rqCmd = some c)
    (hu : (program s.params.variant c)[s.upc.toNat]? = some u) (hd : decodeUop s.params.variant u = .ok i) :
    s.microEvent = .micro i := by
  simp only [State.microEvent, State.fetchUop, readRqCmd_ok.mpr hc, hu, hd]

theorem step_eq_onNext_endMicro {s : State} {i : Instr} (he : s.event = .micro i) :
    step s = onNext State.endMicro (exec i s) := by
  simp only [step, he]

/-- What stands around an instruction matters only on the states that the instruction answers. -/
theorem onNext_congr {f g : State → State} {o : Host.Outcome State Fault Refusal} (h : ∀ t, o = .next t → f t = g t) :
    onNext f o = onNext g o := by
  cases o with
  | next t => exact congrArg Host.Outcome.next (h t rfl)
  | fault r => rfl
  | refused r => rfl

/-- The advance (R186) and the completion (R187) with `UPLEN` and `NWORDS` by the number of rounds, field by field. -/
theorem advance_eq (t : State) :
    t.advance = if t.upc.toNat < 4 * t.params.variant.nr + 2 then { t with upc := t.upc + 1 }
      else { t with
        mode := .done, upc := 0, st := Grid.empty, w := List.replicate (4 * (t.params.variant.nr + 1)) none
        rqCmd := none, rqKey := List.replicate (4 * t.params.variant.nk) none, rqBlock := Seq16.empty } := rfl

/-- Settles O40: the event is the micro step of the fetched word, which leaves `UPC` and the parameters as the advance finds them. -/
theorem aMicroStepRunsTheDecodedWord : Obligations.AMicroStepRunsTheDecodedWord := by
  intro s c u i hr hb hm hc hu hd
  have he : s.event = .micro i := (event_run hr hb hm).trans (microEvent_of_fetch hc hu hd)
  rw [step_eq_onNext_endMicro he]
  refine onNext_congr fun t ht => ?_
  obtain ⟨-, hupc, hpar⟩ := exec_micro_mode (decodeUop_isMicro hd) ht
  rw [State.endMicro, advance_eq, hupc, hpar]

end Sys2Proof.Machine
end

section
/-! The errors of a request (spec file 60): which error the two lengths raise (R201 to R203), and the accept step in its three outcomes
(R185, R204). -/

namespace Sys2Proof.Machine

/-! ### The error of the two lengths (R201 to R203) -/

theorem lengthError_of_key_ne {v : Variant} {k : Nat} (hk : k ≠ v.keyBytes) (b : Nat) :
    lengthError v k b = some .invalidKeyLength := if_pos hk

theorem lengthError_of_block_ne {v : Variant} {k b : Nat} (hk : k = v.keyBytes) (hb : b ≠ 16) :
    lengthError v k b = some .invalidBlockLength := (if_neg (not_not_intro hk)).trans (if_pos hb)

/-! ### The request taken (R45) -/

/-- Taking a request, field by field, its bytes as the ports carry them. -/
theorem startRun_eq (s : State) (c : BitVec 1) :
    s.startRun c = { s with
      out := Seq16.empty
      rqCmd := some c
      rqKey := (List.range (4 * s.params.variant.nk)).map fun j => some ((s.pins.keyIn >>> (248 - 8 * j)).setWidth 8)
      rqBlock := Seq16.ofFn fun j => some ((s.pins.blockIn >>> (120 - 8 * j.val)).setWidth 8)
      err := none
      upc := 0
      mode := .run } := by
  rw [State.startRun, State.requestKey, List.map_map]
  rfl

/-! ### The accept step (R185) -/

/-- Settles O29: a command is the accept step, which takes the error of the two lengths where there is one, else the request. -/
theorem commandsAreTheAcceptStep : Obligations.CommandsAreTheAcceptStep := by
  intro s i c hi hm
  have hx : exec i s = .next (s.accept c) := by
    simp only [List.mem_cons, List.not_mem_nil, or_false, Prod.mk.injEq] at hi
    rcases hi with ⟨rfl, rfl⟩ | ⟨rfl, rfl⟩
    · exact exec_decodeCmd 0 s
    · exact exec_decodeCmd 1 s
  rw [hx]
  refine ⟨fun hk => ?_, fun hk hb => ?_, fun hk hb => ?_⟩
  · rw [accept_error c hm (lengthError_of_key_ne hk _), State.raise]
  · have hb' : s.pins.blockLen.toNat ≠ 16 := fun h => hb (BitVec.eq_of_toNat_eq h)
    rw [accept_error c hm (lengthError_of_block_ne hk hb'), State.raise]
  · rw [accept_legal c hm (lengthError_eq_none.mpr ⟨hk, congrArg BitVec.toNat hb⟩), startRun_eq]

end Sys2Proof.Machine
end

section
/-! The words against the instructions (spec R60 to R67): decoding and encoding agree in both directions, and the two programs
between them hold exactly the UOP words that name an operation. -/

namespace Sys2Proof

/-! ### An instruction's word decodes to it -/

/-- One case for each row of the opcode table. -/
theorem decode_encode {v : Variant} {i : Instr} (h : i.wf v = true) : decode v (encode i) = .ok i := by
  cases i with
  | encode => exact Laws.RoundTrip.encode v h
  | decode => exact Laws.RoundTrip.decode v h
  | loadblock => exact Laws.RoundTrip.loadblock v h
  | keyexpand => exact Laws.RoundTrip.keyexpand v h
  | addroundkey rnd => exact Laws.RoundTrip.addroundkey rnd v h
  | subbytes => exact Laws.RoundTrip.subbytes v h
  | shiftrows => exact Laws.RoundTrip.shiftrows v h
  | mixcolumns => exact Laws.RoundTrip.mixcolumns v h
  | invsubbytes => exact Laws.RoundTrip.invsubbytes v h
  | invshiftrows => exact Laws.RoundTrip.invshiftrows v h
  | invmixcolumns => exact Laws.RoundTrip.invmixcolumns v h
  | storeblock => exact Laws.RoundTrip.storeblock v h
  | xtime => exact Laws.RoundTrip.xtime v h
  | gfmult => exact Laws.RoundTrip.gfmult v h
  | mul02 => exact Laws.RoundTrip.mul02 v h
  | mul03 => exact Laws.RoundTrip.mul03 v h
  | mul09 => exact Laws.RoundTrip.mul09 v h
  | mul0b => exact Laws.RoundTrip.mul0b v h
  | mul0d => exact Laws.RoundTrip.mul0d v h
  | mul0e => exact Laws.RoundTrip.mul0e v h
  | rcon => exact Laws.RoundTrip.rcon v h
  | subbyte => exact Laws.RoundTrip.subbyte v h
  | invsubbyte => exact Laws.RoundTrip.invsubbyte v h
  | subword => exact Laws.RoundTrip.subword v h
  | rotword => exact Laws.RoundTrip.rotword v h

/-! ### A word that decodes is its instruction's word -/

/-- Checked at both CMD words. -/
theorem encode_decodeCmd : ∀ c : BitVec 1, encode (decodeCmd c) = .cmd c := by decide

theorem wf_decodeCmd (v : Variant) (c : BitVec 1) : (decodeCmd c).wf v = true := by
  unfold decodeCmd
  split <;> rfl

/-- A UOP word is its opcode above its operand (R63). -/
theorem uop_eq_append (u : BitVec 8) : u.extractLsb' 4 4 ++ u.extractLsb' 0 4 = u := by
  rw [BitVec.extractLsb'_append_extractLsb'_eq_extractLsb' (by rfl), BitVec.extractLsb'_eq_self]

/-- Checked at each of the sixteen opcodes: what takes no operand has its opcode above operand 0 as its word (R64). -/
theorem encode_of_plainUop : ∀ op : BitVec 4, ∀ i ∈ plainUop op, encode i = .uop (op ++ 0#4) := by decide

theorem wf_of_plainUop (v : Variant) : ∀ op : BitVec 4, ∀ i ∈ plainUop op, i.wf v = true := by
  cases v <;> decide

/-- A UOP word is read as ADDROUNDKEY above its operand, which is at most `Nr`, or as an operation without one above operand 0. -/
theorem decodeUop_cases {v : Variant} {u : BitVec 8} {i : Instr} (h : decodeUop v u = .ok i) :
    (∃ rnd : BitVec 4, rnd.toNat ≤ v.nr ∧ i = .addroundkey rnd ∧ u = 0x2#4 ++ rnd) ∨
      ∃ op, plainUop op = some i ∧ u = op ++ 0#4 := by
  have hu := (uop_eq_append u).symm
  unfold decodeUop at h
  simp only at h
  split at h
  · next hop =>
    split at h
    · next hr =>
      cases h
      exact .inl ⟨_, hr, rfl, by rwa [hop] at hu⟩
    · cases h
  · split at h
    · cases h
    · next j hj =>
      split at h
      · next h0 =>
        cases h
        exact .inr ⟨_, hj, by rwa [h0] at hu⟩
      · cases h

theorem wf_encode_of_decodeUop {v : Variant} {u : BitVec 8} {i : Instr} (h : decodeUop v u = .ok i) :
    i.wf v = true ∧ encode i = .uop u := by
  rcases decodeUop_cases h with ⟨rnd, hr, rfl, rfl⟩ | ⟨op, hop, rfl⟩
  · exact ⟨decide_eq_true hr, rfl⟩
  · exact ⟨wf_of_plainUop v op i hop, encode_of_plainUop op i hop⟩

/-- Checked at each of the sixteen labels. -/
theorem encode_of_decodeFunc : ∀ f : BitVec 4, ∀ i ∈ (decodeFunc f).toOption, encode i = .func f := by decide

theorem wf_of_decodeFunc (v : Variant) : ∀ f : BitVec 4, ∀ i ∈ (decodeFunc f).toOption, i.wf v = true := by
  cases v <;> decide

/-- Every format read back: a command, a micro-operation, a function unit. -/
theorem wf_encode_of_decode {v : Variant} {x : EncWord} {i : Instr} (h : decode v x = .ok i) :
    i.wf v = true ∧ encode i = x := by
  cases x with
  | cmd c =>
    cases h
    exact ⟨wf_decodeCmd v c, encode_decodeCmd c⟩
  | uop u => exact wf_encode_of_decodeUop h
  | func f =>
    have hi : i ∈ (decodeFunc f).toOption := by
      rw [show decodeFunc f = .ok i from h]
      rfl
    exact ⟨wf_of_decodeFunc v f i hi, encode_of_decodeFunc f i hi⟩

/-- Settles O31: one way by the words of the three formats, the other by the rows of the opcode table. -/
theorem decodeAndEncodeAgree : Obligations.DecodeAndEncodeAgree :=
  fun _ _ _ => ⟨wf_encode_of_decode, fun ⟨hwf, hx⟩ => hx ▸ decode_encode hwf⟩

/-- Settles O32: each word is the encoding of its row, and ten is a round of every variant. -/
theorem wordsDecodeToTheirRows : Obligations.WordsDecodeToTheirRows := by
  intro v
  have hten : Instr.wf v (.addroundkey 10) = true := by cases v <;> decide
  have row {i : Instr} {x : EncWord} (hwf : i.wf v = true) (hx : encode i = x) : decode v x = .ok i :=
    (decodeAndEncodeAgree v x i).mpr ⟨hwf, hx⟩
  exact ⟨row rfl rfl, row rfl rfl, row rfl rfl, row rfl rfl, row hten rfl, row rfl rfl, row rfl rfl, row rfl rfl, row rfl rfl,
    row rfl rfl, row rfl rfl, row rfl rfl⟩

/-! ### The words that the programs hold (R66, R184) -/

namespace Machine

theorem roundOperand_toNat {v : Variant} {r : Nat} (h : r ≤ v.nr) : (BitVec.ofNat 4 r).toNat = r := by
  have hmax : v.nr < 2 ^ 4 := by cases v <;> decide
  rw [BitVec.toNat_ofNat, Nat.mod_eq_of_lt (h.trans_lt hmax)]

/-- The word `0x20 | r` of the programs (R184) is ADDROUNDKEY of round `r`. -/
theorem decodeUop_round {v : Variant} {r : Nat} (h : r ≤ v.nr) :
    decodeUop v (0x20 ||| BitVec.ofNat 8 r) = .ok (.addroundkey (BitVec.ofNat 4 r)) := by
  have hr := roundOperand_toNat h
  have hword : (0x20 : BitVec 8) ||| BitVec.ofNat 8 r = 0x2#4 ++ BitVec.ofNat 4 r := by
    rw [addroundkey_word, ← BitVec.ofNat_toNat, hr]
    rfl
  rw [hword]
  exact Laws.RoundTrip.addroundkey _ v (decide_eq_true (hr.trans_le h))

/-- The words of `PROGRAM(cmd)` between KEYEXPAND and STOREBLOCK: the sequence of CIPHER (R144) or of INVCIPHER (R163). -/
def roundWords (v : Variant) (c : BitVec 1) : List (BitVec 8) :=
  if c = 0 then
    [0x20] ++ (List.range (v.nr - 1)).flatMap (fun j => [0x30, 0x40, 0x50, 0x20 ||| BitVec.ofNat 8 (j + 1)])
      ++ [0x30, 0x40, 0x20 ||| BitVec.ofNat 8 v.nr]
  else
    [0x20 ||| BitVec.ofNat 8 v.nr]
      ++ (List.range (v.nr - 1)).flatMap (fun j => [0x70, 0x60, 0x20 ||| BitVec.ofNat 8 (v.nr - (j + 1)), 0x80])
      ++ [0x70, 0x60, 0x20]

/-- R184: LOADBLOCK, KEYEXPAND, the rounds, STOREBLOCK. -/
theorem program_eq (v : Variant) (c : BitVec 1) : program v c = 0x00 :: 0x10 :: (roundWords v c ++ [0x90]) := by
  unfold program roundWords
  split <;> simp [encodeProgram, decodeProgram]

/-- The seven round transformations: what a program runs between KEYEXPAND and STOREBLOCK. -/
def IsRound : Instr → Prop
  | .addroundkey _ | .subbytes | .shiftrows | .mixcolumns | .invsubbytes | .invshiftrows | .invmixcolumns => True
  | .loadblock | .keyexpand | .storeblock | .encode | .decode | .xtime | .gfmult | .mul02 | .mul03 | .mul09 | .mul0b | .mul0d
  | .mul0e | .rcon | .subbyte | .invsubbyte | .subword | .rotword => False

theorem decodeUop_of_mem_roundWords {v : Variant} {c : BitVec 1} {u : BitVec 8} (hu : u ∈ roundWords v c) :
    ∃ i, decodeUop v u = .ok i ∧ IsRound i := by
  have round {r : Nat} (h : r ≤ v.nr) : ∃ i, decodeUop v (0x20 ||| BitVec.ofNat 8 r) = .ok i ∧ IsRound i :=
    ⟨_, decodeUop_round h, trivial⟩
  unfold roundWords at hu
  split at hu
  all_goals
    simp only [List.mem_append, List.mem_flatMap, List.mem_range, List.mem_cons, List.not_mem_nil, or_false] at hu
  · rcases hu with (rfl | ⟨j, hj, rfl | rfl | rfl | rfl⟩) | rfl | rfl | rfl
    case inl.inr.inr.inr.inr => exact round (by omega)
    case inr.inr.inr => exact round le_rfl
    all_goals exact ⟨_, rfl, trivial⟩
  · rcases hu with (rfl | ⟨j, hj, rfl | rfl | rfl | rfl⟩) | rfl | rfl | rfl
    case inl.inl => exact round le_rfl
    case inl.inr.inr.inr.inl => exact round (by omega)
    all_goals exact ⟨_, rfl, trivial⟩

theorem decodeUop_of_mem_program {v : Variant} {c : BitVec 1} {u : BitVec 8} (hu : u ∈ program v c) :
    ∃ i, decodeUop v u = .ok i := by
  rw [program_eq, List.mem_cons, List.mem_cons, List.mem_append, List.mem_singleton] at hu
  rcases hu with rfl | rfl | hu | rfl
  · exact ⟨.loadblock, rfl⟩
  · exact ⟨.keyexpand, rfl⟩
  · exact (decodeUop_of_mem_roundWords hu).imp fun _ => And.left
  · exact ⟨.storeblock, rfl⟩

/-- What a program holds at each index. -/
theorem program_fetch {v : Variant} {c : BitVec 1} {k : Nat} {u : BitVec 8} (h : (program v c)[k]? = some u) :
    (k = 0 ∧ u = 0x00) ∨ (k = 1 ∧ u = 0x10) ∨ (2 ≤ k ∧ k < v.uplen - 1 ∧ u ∈ roundWords v c) ∨
      (k = v.uplen - 1 ∧ u = 0x90) := by
  have hlen : (roundWords v c).length + 3 = v.uplen := by
    rw [← length_program v c, program_eq]
    simp
  rw [program_eq] at h
  match k, h with
  | 0, h => exact .inl ⟨rfl, (Option.some.inj h).symm⟩
  | 1, h => exact .inr (.inl ⟨rfl, (Option.some.inj h).symm⟩)
  | k + 2, h =>
    rw [List.getElem?_cons_succ, List.getElem?_cons_succ] at h
    refine .inr (.inr ?_)
    rcases lt_or_ge k (roundWords v c).length with hk | hk
    · rw [List.getElem?_append_left hk] at h
      exact .inl ⟨by omega, by omega, List.mem_of_getElem? h⟩
    · rw [List.getElem?_append_right hk, List.getElem?_singleton] at h
      split at h
      · exact .inr ⟨by omega, (Option.some.inj h).symm⟩
      · cases h

/-- Checked at each round of each variant. -/
theorem addroundkey_mem_program (v : Variant) : ∀ rnd : BitVec 4, rnd.toNat ≤ v.nr → 0x2#4 ++ rnd ∈ program v 0 := by
  cases v <;> decide

/-- Checked at each of the sixteen opcodes for each variant. -/
theorem plainUop_mem_program (v : Variant) :
    ∀ op : BitVec 4, (plainUop op).isSome → op ++ 0#4 ∈ program v 0 ∨ op ++ 0#4 ∈ program v 1 := by
  cases v <;> decide

/-- Between them the two programs hold every word that names an operation. -/
theorem mem_program_of_decodeUop {v : Variant} {u : BitVec 8} {i : Instr} (h : decodeUop v u = .ok i) :
    u ∈ program v 0 ∨ u ∈ program v 1 := by
  rcases decodeUop_cases h with ⟨rnd, hr, -, rfl⟩ | ⟨op, hop, rfl⟩
  · exact .inl (addroundkey_mem_program v rnd hr)
  · exact plainUop_mem_program v op (hop ▸ rfl)

/-- Settles O35: LOADBLOCK, KEYEXPAND, the rounds and STOREBLOCK all decode. -/
theorem programsHoldNoReservedWord : Obligations.ProgramsHoldNoReservedWord := fun _ _ _ => decodeUop_of_mem_program

/-- Settles O36: counted in the program of each variant. -/
theorem cipherStageCounts : Obligations.CipherStageCounts := by
  intro v
  cases v <;> decide

end Machine

/-! ### The numbers of the opcode table (R60, R70) -/

theorem tableWord_cmd (c : BitVec 1) : tableWord 1 c.toNat = some (.cmd c) := by
  simp [tableWord, c.isLt]

theorem tableWord_func (f : BitVec 4) : tableWord 4 f.toNat = some (.func f) := by
  simp [tableWord, f.isLt]

theorem tableWord_uop (u : BitVec 8) : tableWord 8 u.toNat = some (.uop u) := by
  simp [tableWord, u.isLt]

theorem decodeTableWord_eq_some_iff (nbits n : Nat) (i : Instr) :
    decodeTableWord nbits n = some i ↔ ∃ x, tableWord nbits n = some x ∧ decode Config.variant x = .ok i := by
  unfold decodeTableWord
  cases tableWord nbits n with
  | none => simp
  | some x => cases h : decode Config.variant x <;> simp [h]

/-! ### What the next step does with a placed word (log 9) -/

namespace Machine

/-- `UPC` can hold every index of a program (R25). -/
theorem uplen_lt (v : Variant) : v.uplen < 2 ^ 6 := by cases v <;> decide

/-- A micro-operation of a program is fetched at its first place there, which `UPC` can hold. -/
theorem event_placeUop {s : State} {c : BitVec 1} {u : BitVec 8} {i : Instr} (hr : s.pins.rst = false) (hb : s.bench = none)
    (hu : u ∈ program s.params.variant c) (hd : decodeUop s.params.variant u = .ok i) :
    (s.placeUop c u).event = .micro i := by
  have hlt : (program s.params.variant c).idxOf u < s.params.variant.uplen :=
    length_program _ c ▸ List.idxOf_lt_length_of_mem hu
  refine (event_run (s := s.placeUop c u) hr hb rfl).trans (microEvent_of_fetch (s := s.placeUop c u) rfl ?_ hd)
  show (program s.params.variant c)[(BitVec.ofNat 6 ((program s.params.variant c).idxOf u)).toNat]? = some u
  rw [BitVec.toNat_ofNat, Nat.mod_eq_of_lt (hlt.trans (uplen_lt _)), List.getElem?_idxOf hu]

theorem event_placeCmd {s : State} {c : BitVec 1} (hr : s.pins.rst = false) (hb : s.bench = none) :
    (s.placeCmd c).event = .command (decodeCmd c) := by
  refine event_ready hr hb ?_
  show (if s.mode = .run then Mode.idle else s.mode) ≠ .run
  split
  · nofun
  · assumption

/-- The event of a placed word that names an instruction. -/
theorem event_place_of_decode {s : State} {x : EncWord} {i : Instr} (hd : decode s.params.variant x = .ok i) :
    (s.place x).event = .command i ∨ (s.place x).event = .micro i ∨ (s.place x).event = .unit i := by
  cases x with
  | cmd c =>
    cases hd
    exact .inl (event_placeCmd rfl rfl)
  | uop u =>
    refine .inr (.inl ?_)
    by_cases h0 : u ∈ program s.params.variant 0
    · simp only [State.place, if_pos h0]
      exact event_placeUop rfl rfl h0 hd
    · have h1 := (mem_program_of_decodeUop hd).resolve_left h0
      simp only [State.place, if_neg h0, if_pos h1]
      exact event_placeUop rfl rfl h1 hd
  | func f =>
    refine .inr (.inr ((event_bench (x := .func f) rfl rfl).trans ?_))
    simp only [benchEvent, State.place, hd]

/-- A placed word that names nothing is on the bench: no program holds it. -/
theorem event_place_of_reserved {s : State} {x : EncWord} {why : DecodeReject}
    (hd : decode s.params.variant x = .error why) : (s.place x).event = .refuse (.reservedWord why) := by
  have hbench (t : State) (ht : t.params = s.params) (hr : t.pins.rst = false) (hb : t.bench = some x) :
      t.event = .refuse (.reservedWord why) := by
    rw [event_bench hr hb, ht]
    simp only [benchEvent, hd]
  cases x with
  | cmd c => cases hd
  | uop u =>
    have hno (c : BitVec 1) : u ∉ program s.params.variant c := fun hu => by
      obtain ⟨i, hi⟩ := decodeUop_of_mem_program hu
      cases hi.symm.trans hd
    simp only [State.place, if_neg (hno 0), if_neg (hno 1)]
    exact hbench _ rfl rfl rfl
  | func f => exact hbench _ rfl rfl rfl

theorem withFetchWord_of_tableWord {nbits n : Nat} {x : EncWord} (hx : tableWord nbits n = some x) (s : State) :
    s.withFetchWord nbits n = s.place x := by
  simp only [State.withFetchWord, State.placeNumber, hx]

theorem step_of_refuse {s : State} {r : Refusal} (he : s.event = .refuse r) : step s = .refused r := by
  simp only [step, he]

/-- Settles O42: the number is placed as its word, and the event of that is its instruction's. -/
theorem thePlacedWordIsFetched : Obligations.ThePlacedWordIsFetched := by
  intro s nbits n x i hx hd s'
  rw [show s' = s.place x from withFetchWord_of_tableWord hx s]
  exact event_place_of_decode hd

/-- Settles O59: a number is read in the format of its width; a reserved word is refused on the bench, where it is placed. -/
theorem reservedNumbersAreRefused : Obligations.ReservedNumbersAreRefused := by
  refine ⟨tableWord_cmd, tableWord_func, tableWord_uop, decodeTableWord_eq_some_iff, fun s nbits n x why hx hd => ?_⟩
  rw [withFetchWord_of_tableWord hx]
  exact step_of_refuse (event_place_of_reserved hd)

end Machine

end Sys2Proof
end

section
/-! The state as the steps keep it (spec R24 to R31, C14): the registers that each micro-operation writes, and the invariant of the
machine. -/

namespace Sys2Proof.Machine

/-! ### The registers that a micro-operation writes (R31) -/

/-- LOADBLOCK and the seven round transformations write `ST`; KEYEXPAND writes `W`; STOREBLOCK writes `OUT`. -/
inductive MicroWrites (s u : State) : Instr → Prop
  | st {i : Instr} (hi : i = .loadblock ∨ IsRound i) (m : Grid Byte) (hu : u = s.writeSt m) : MicroWrites s u i
  | w (ws : List Word) (hu : u = s.writeW ws) (hlen : ws.length = s.params.variant.nwords) : MicroWrites s u .keyexpand
  | out (b : Seq16 Byte) (hu : u = s.writeOut b) : MicroWrites s u .storeblock

theorem exec_micro_writes {s u : State} {i : Instr} (hi : IsMicro i) (h : exec i s = .next u) : MicroWrites s u i := by
  cases i with
  | loadblock => obtain ⟨_, _, hu⟩ := exec_loadblock_next.mp h; exact .st (.inl rfl) _ hu
  | keyexpand => obtain ⟨_, _, _, hu⟩ := exec_keyexpand_next.mp h; exact .w _ hu (length_keyExpand ..)
  | addroundkey rnd => obtain ⟨_, _, _, _, _, hu⟩ := exec_addroundkey_next.mp h; exact .st (.inr trivial) _ hu
  | subbytes => obtain ⟨_, _, hu⟩ := exec_subbytes_next.mp h; exact .st (.inr trivial) _ hu
  | shiftrows => obtain ⟨_, _, hu⟩ := exec_shiftrows_next.mp h; exact .st (.inr trivial) _ hu
  | mixcolumns => obtain ⟨_, _, hu⟩ := exec_mixcolumns_next.mp h; exact .st (.inr trivial) _ hu
  | invsubbytes => obtain ⟨_, _, hu⟩ := exec_invsubbytes_next.mp h; exact .st (.inr trivial) _ hu
  | invshiftrows => obtain ⟨_, _, hu⟩ := exec_invshiftrows_next.mp h; exact .st (.inr trivial) _ hu
  | invmixcolumns => obtain ⟨_, _, hu⟩ := exec_invmixcolumns_next.mp h; exact .st (.inr trivial) _ hu
  | storeblock => obtain ⟨_, _, hu⟩ := exec_storeblock_next.mp h; exact .out _ hu
  | encode | decode | xtime | gfmult | mul02 | mul03 | mul09 | mul0b | mul0d | mul0e | rcon | subbyte | invsubbyte | subword
  | rotword => exact hi.elim

theorem IsRound.isMicro {i : Instr} (h : IsRound i) : IsMicro i := by
  cases i with
  | addroundkey _ | subbytes | shiftrows | mixcolumns | invsubbytes | invshiftrows | invmixcolumns => trivial
  | loadblock | keyexpand | storeblock | encode | decode | xtime | gfmult | mul02 | mul03 | mul09 | mul0b | mul0d | mul0e | rcon
  | subbyte | invsubbyte | subword | rotword => exact h.elim

theorem exec_round_writes {s u : State} {i : Instr} (hi : IsRound i) (h : exec i s = .next u) : ∃ m, u = s.writeSt m := by
  cases exec_micro_writes hi.isMicro h with
  | st _ m hu => exact ⟨m, hu⟩
  | w => exact hi.elim
  | out => exact hi.elim

/-- A micro-operation reads the parameters, `ST`, `W` and the latched key and block, so the other fields may hold what `x` holds. -/
abbrev State.withControl (s x : State) : State :=
  { s with rqCmd := x.rqCmd, mode := x.mode, upc := x.upc, err := x.err, pins := x.pins, script := x.script, unit := x.unit
           bench := x.bench, draws := x.draws }

theorem onNext_reading {α : Type} (f : State → State) (r : Except Fault α) (k : α → Host.Outcome State Fault Refusal) :
    onNext f (reading r k) = reading r fun a => onNext f (k a) := by
  cases r <;> rfl

theorem exec_withControl {i : Instr} (hi : IsMicro i) (s x : State) :
    exec i (s.withControl x) = onNext (·.withControl x) (exec i s) := by
  cases i with
  | addroundkey rnd =>
    show execAddroundkey rnd (s.withControl x) = onNext _ (execAddroundkey rnd s)
    unfold execAddroundkey
    split
    · simp only [onNext_reading]
      rfl
    · rfl
  | loadblock | keyexpand | subbytes | shiftrows | mixcolumns | invsubbytes | invshiftrows | invmixcolumns | storeblock =>
    exact Eq.symm ((onNext_reading ..).trans rfl)
  | encode | decode | xtime | gfmult | mul02 | mul03 | mul09 | mul0b | mul0d | mul0e | rcon | subbyte | invsubbyte | subword
  | rotword => exact hi.elim

/-! ### The micro-operation of each index (R184, R186) -/

/-- The shortest program is that of AES128 (R8). -/
theorem le_uplen (v : Variant) : 43 ≤ v.uplen := by cases v <;> decide

theorem event_micro_index {s : State} {i : Instr} (h : s.event = .micro i) :
    (s.upc.toNat = 0 ∧ i = .loadblock) ∨ (s.upc.toNat = 1 ∧ i = .keyexpand) ∨
      (2 ≤ s.upc.toNat ∧ s.upc.toNat < s.params.variant.uplen - 1 ∧ IsRound i) ∨
      (s.upc.toNat = s.params.variant.uplen - 1 ∧ i = .storeblock) := by
  obtain ⟨-, -, -, hm⟩ := event_eq_micro h
  obtain ⟨c, u, -, hu, hd⟩ := microEvent_micro hm
  rcases program_fetch hu with ⟨hk, rfl⟩ | ⟨hk, rfl⟩ | ⟨h2, hk, hmem⟩ | ⟨hk, rfl⟩
  · exact .inl ⟨hk, (Except.ok.inj hd).symm⟩
  · exact .inr (.inl ⟨hk, (Except.ok.inj hd).symm⟩)
  · obtain ⟨j, hj, hround⟩ := decodeUop_of_mem_roundWords hmem
    obtain rfl := Except.ok.inj (hj.symm.trans hd)
    exact .inr (.inr (.inl ⟨h2, hk, hround⟩))
  · exact .inr (.inr (.inr ⟨hk, (Except.ok.inj hd).symm⟩))

/-! ### The invariant: the steps outside RUN -/

theorem inv_resetOf (p : Params) : (State.resetOf p).Inv :=
  ⟨nofun, fun _ => ⟨rfl, rfl, rfl, rfl, rfl, rfl⟩, nofun, fun _ => rfl, by simp [State.resetOf]⟩

/-- Settles O49: the core is in IDLE, no error, with UPC 0 and every data register none. -/
theorem resetMeetsTheInvariant : Obligations.ResetMeetsTheInvariant := inv_resetOf

/-- The invariant speaks of the registers alone, not of what the world moves between two steps. -/
theorem inv_tick_iff (s : State) : s.tick.Inv ↔ s.Inv := Iff.rfl

theorem inv_writeResult_iff (s : State) (r : UnitResult) : (s.writeResult r).Inv ↔ s.Inv := Iff.rfl

theorem inv_resetRegs (s : State) : s.resetRegs.Inv :=
  ⟨nofun, fun _ => ⟨rfl, rfl, rfl, rfl, rfl, rfl⟩, nofun, fun _ => rfl, by simp⟩

theorem inv_raise {s : State} (e : LengthError) (hd : s.discarded) : (s.raise e).Inv :=
  ⟨nofun, fun _ => ⟨rfl, hd⟩, nofun, fun _ => rfl, by simp⟩

theorem inv_startRun {s : State} (c : BitVec 1) (hd : s.discarded) : (s.startRun c).Inv := by
  obtain ⟨hst, hw, -, -, -⟩ := hd
  have hkey : s.requestKey.length = s.params.variant.keyBytes := by simp [State.requestKey]
  have hlatched : (s.startRun c).latched := by simp [State.latched, hkey]
  have hloaded : (s.startRun c).loadedFor := by simp [State.loadedFor, hst, hw]
  have hpos : 0 < s.params.variant.uplen := (Nat.succ_pos 42).trans_le (le_uplen _)
  exact ⟨fun _ => ⟨hpos, hlatched, hloaded⟩, fun h => absurd rfl h, nofun, fun _ => rfl, by simp⟩

theorem inv_accept {s : State} (c : BitVec 1) (h : s.Inv) (hm : s.mode ≠ .run) : (s.accept c).Inv := by
  obtain ⟨-, hout, -⟩ := h
  obtain ⟨-, hd⟩ := hout hm
  rcases accept_cases s c with ⟨hrun, -⟩ | ⟨-, ⟨e, -, ha⟩ | ⟨-, ha⟩⟩
  · exact absurd hrun hm
  · exact ha ▸ inv_raise e hd
  · exact ha ▸ inv_startRun c hd

/-! ### The invariant: a micro step -/

/-- The completion leaves a state in DONE with every data register none but OUT. -/
theorem inv_complete {s : State} (hout : s.out.all?.isSome) (herr : s.err = none) : s.complete.Inv :=
  ⟨nofun, fun _ => ⟨rfl, rfl, rfl, rfl, rfl, rfl⟩, fun _ => hout, fun h => absurd rfl h, by simp [herr]⟩

theorem advance_of_lt {s : State} (h : s.upc.toNat < s.params.variant.uplen - 1) : s.advance = { s with upc := s.upc + 1 } :=
  if_pos h

theorem advance_of_last {s : State} (h : s.upc.toNat = s.params.variant.uplen - 1) : s.advance = s.complete :=
  if_neg h.not_lt

/-- `UPC` has room for the index after any but the last. -/
theorem upc_add_one_toNat {s : State} (h : s.upc.toNat < s.params.variant.uplen - 1) : (s.upc + 1).toNat = s.upc.toNat + 1 := by
  have hmax := uplen_lt s.params.variant
  have hone : (1 : BitVec 6).toNat = 1 := rfl
  rw [BitVec.toNat_add_of_lt (by omega), hone]

/-- What holds in RUN between the micro-operation at `UPC`, not the last, and the advance: `ST` is loaded, and `W` too unless
LOADBLOCK is all that has run. -/
structure State.Performed (s : State) : Prop where
  run : s.mode = .run
  notLast : s.upc.toNat < s.params.variant.uplen - 1
  latched : s.latched
  length_w : s.w.length = s.params.variant.nwords
  st : s.st.all?.isSome
  w_none : s.upc.toNat = 0 → s.w = List.replicate s.params.variant.nwords none
  w_some : 1 ≤ s.upc.toNat → (allSome s.w).isSome
  out : s.out = Seq16.empty
  err : s.err = none

theorem inv_advance {s : State} (h : s.Performed) : s.advance.Inv := by
  rw [advance_of_lt h.notLast]
  have hnext := upc_add_one_toNat h.notLast
  have hlt := h.notLast
  have hloaded : State.loadedFor { s with upc := s.upc + 1 } := by
    refine ⟨h.length_w, fun h0 => ?_, fun _ => h.st, fun h1 => h.w_none ?_, fun h2 => h.w_some ?_⟩
    · exact absurd (hnext.symm.trans (congrArg BitVec.toNat h0)) (Nat.succ_ne_zero _)
    · simp only [hnext] at h1
      omega
    · simp only [hnext] at h2
      omega
  refine ⟨fun _ => ⟨?_, h.latched, hloaded⟩, fun hm => absurd h.run hm, fun hm => ?_, fun _ => h.out, ?_⟩
  · simp only [hnext]
    omega
  · cases h.run.symm.trans hm
  · simp [h.run, h.err]

/-- Index by index: LOADBLOCK loads `ST`, KEYEXPAND loads `W`, the rounds write `ST` again, and STOREBLOCK's is the completion. -/
theorem inv_micro {s u : State} {i : Instr} (h : s.Inv) (he : s.event = .micro i) (hx : exec i s = .next u) :
    u.advance.Inv := by
  obtain ⟨-, -, hm, -⟩ := event_eq_micro he
  obtain ⟨hrun, -, -, hout, herr⟩ := h
  obtain ⟨-, hrq, hlen, -, hst, hw0, hw⟩ := hrun hm
  have hout : s.out = Seq16.empty := hout (by simp [hm])
  have herr : s.err = none := by simpa [hm] using herr
  have hmin := le_uplen s.params.variant
  rcases event_micro_index he with ⟨hk, rfl⟩ | ⟨hk, rfl⟩ | ⟨h2, hk, hi⟩ | ⟨hk, rfl⟩
  · obtain ⟨b, -, rfl⟩ := exec_loadblock_next.mp hx
    have hlt : s.upc.toNat < s.params.variant.uplen - 1 := by omega
    exact inv_advance ⟨hm, hlt, hrq, hlen, rfl, fun _ => hw0 (by omega), fun h1 => absurd h1 (by simp [hk]), hout, herr⟩
  · obtain ⟨key, -, -, rfl⟩ := exec_keyexpand_next.mp hx
    have hlt : s.upc.toNat < s.params.variant.uplen - 1 := by omega
    have hne : s.upc ≠ 0 := fun h0 => by simp [h0] at hk
    exact inv_advance ⟨hm, hlt, hrq, by simp, hst hne, fun h0 => absurd h0 (by simp [hk]), fun _ => by simp, hout, herr⟩
  · obtain ⟨m, rfl⟩ := exec_round_writes hi hx
    exact inv_advance ⟨hm, hk, hrq, hlen, rfl, fun h0 => hw0 (h0 ▸ Nat.zero_le 1), fun _ => hw h2, hout, herr⟩
  · obtain ⟨m, -, rfl⟩ := exec_storeblock_next.mp hx
    rw [advance_of_last (s := s.writeOut (storeBlock m)) hk]
    exact inv_complete rfl herr

/-- Settles O50: the reset and the accept step each lead to a state of its kind, a micro step goes index by index, and nothing else writes a
register. -/
theorem everyStepKeepsTheInvariant : Obligations.EveryStepKeepsTheInvariant := by
  intro s t h hstep
  rcases step_cases hstep with ⟨-, rfl⟩ | ⟨-, rfl⟩ | ⟨i, u, he, hx, rfl⟩ | ⟨i, u, he, hx, rfl⟩ | ⟨i, u, he, hx, rfl⟩
  · exact (inv_tick_iff _).mpr (inv_resetRegs s)
  · exact (inv_tick_iff s).mpr h
  · obtain ⟨-, -, hm, -, rfl⟩ := event_eq_command he
    rw [exec_decodeCmd] at hx
    obtain rfl := Host.Outcome.next.inj hx
    exact (inv_tick_iff _).mpr (inv_accept _ h hm)
  · exact (inv_tick_iff _).mpr (inv_micro h he hx)
  · obtain ⟨-, f, -, hd⟩ := event_eq_unit he
    obtain ⟨r, rfl⟩ := exec_func_frame hd hx
    exact (inv_tick_iff _).mpr ((inv_writeResult_iff s r).mpr h)

end Sys2Proof.Machine
end

section
/-! The steps of the core (spec R185 to R187, R230 to R237): none stops, what each writes, what it pays heed to, and what the ports
show. -/

namespace Sys2Proof.Machine

/-! ### No step of the core stops (R187, R211) -/

theorem exists_eq_map_some_of_all? {g : Grid (Option Byte)} (h : g.all?.isSome) : ∃ m : Grid Byte, g = m.map some :=
  (Option.isSome_iff_exists.mp h).imp fun _ => Grid.all?_eq_some.mp

theorem exists_eq_map_some_of_allSome {α : Type} {l : List (Option α)} (h : (allSome l).isSome) :
    ∃ as : List α, l = as.map some :=
  (Option.isSome_iff_exists.mp h).imp fun _ => allSome_eq_some.mp

/-- The round key of a complete schedule is read from it (R125, R140). -/
theorem getElem?_roundKey {v : Variant} {ws : List Word} (hlen : ws.length = v.nwords) {r : Nat} (hr : r ≤ v.nr) (c : Fin 4) :
    (ws.map some)[nb * r + c.val]? = some (some ((roundKey ws r).get c)) := by
  have hlt : nb * r + c.val < ws.length := by
    rw [hlen, Variant.nwords, nb]
    omega
  rw [List.getElem?_map, List.getElem?_eq_getElem hlt, roundKey, Quad.get_ofFn, List.getD_eq_getElem _ _ hlt]
  rfl

/-- A round transformation answers a next state where `ST` and `W` are loaded. -/
theorem exec_round_exists {s : State} {i : Instr} {m : Grid Byte} {ws : List Word} (hi : IsRound i)
    (hwf : i.wf s.params.variant = true) (hst : s.st = m.map some) (hw : s.w = ws.map some)
    (hlen : ws.length = s.params.variant.nwords) : ∃ u, exec i s = .next u := by
  cases i with
  | addroundkey rnd =>
    have hr : rnd.toNat ≤ s.params.variant.nr := of_decide_eq_true hwf
    exact ⟨_, exec_addroundkey_of_st hst hr fun c => by rw [hw]; exact getElem?_roundKey hlen hr c⟩
  | subbytes => exact ⟨_, exec_subbytes_of_st hst⟩
  | shiftrows => exact ⟨_, exec_shiftrows_of_st hst⟩
  | mixcolumns => exact ⟨_, exec_mixcolumns_of_st hst⟩
  | invsubbytes => exact ⟨_, exec_invsubbytes_of_st hst⟩
  | invshiftrows => exact ⟨_, exec_invshiftrows_of_st hst⟩
  | invmixcolumns => exact ⟨_, exec_invmixcolumns_of_st hst⟩
  | loadblock | keyexpand | storeblock | encode | decode | xtime | gfmult | mul02 | mul03 | mul09 | mul0b | mul0d | mul0e | rcon
  | subbyte | invsubbyte | subword | rotword => exact hi.elim

/-- In RUN the invariant gives a word to fetch, which names a micro-operation. -/
theorem event_micro_of_inv {s : State} (h : s.Inv) (hr : s.pins.rst = false) (hb : s.bench = none) (hm : s.mode = .run) :
    ∃ i, s.event = .micro i := by
  obtain ⟨hrun, -⟩ := h
  obtain ⟨hlt, ⟨hcmd, -⟩, -⟩ := hrun hm
  obtain ⟨c, hc⟩ := Option.isSome_iff_exists.mp hcmd
  rw [← length_program _ c] at hlt
  have hu := List.getElem?_eq_getElem hlt
  obtain ⟨i, hi⟩ := decodeUop_of_mem_program (List.mem_of_getElem? hu)
  exact ⟨i, (event_run hr hb hm).trans (microEvent_of_fetch hc hu hi)⟩

/-- The registers that the micro-operation at `UPC` reads hold values. -/
theorem exec_micro_of_inv {s : State} {i : Instr} (h : s.Inv) (he : s.event = .micro i) : ∃ u, exec i s = .next u := by
  obtain ⟨-, -, hm, hmicro⟩ := event_eq_micro he
  obtain ⟨hrun, -⟩ := h
  obtain ⟨-, ⟨-, hkeyLen, hkey, hblock⟩, hlen, -, hst, -, hw⟩ := hrun hm
  have hne {k : Nat} (hk : k + 1 ≤ s.upc.toNat) : s.upc ≠ 0 := fun h0 => by simp [h0] at hk
  rcases event_micro_index he with ⟨-, rfl⟩ | ⟨-, rfl⟩ | ⟨h2, -, hi⟩ | ⟨hk, rfl⟩
  · obtain ⟨b, hb⟩ := Option.isSome_iff_exists.mp hblock
    exact ⟨_, exec_loadblock_next.mpr ⟨b, Seq16.all?_eq_some.mp hb, rfl⟩⟩
  · obtain ⟨key, hkey⟩ := exists_eq_map_some_of_allSome hkey
    exact ⟨_, exec_keyexpand_next.mpr ⟨key, hkey, by simpa [hkey] using hkeyLen, rfl⟩⟩
  · obtain ⟨m, hm⟩ := exists_eq_map_some_of_all? (hst (hne h2))
    obtain ⟨ws, hws⟩ := exists_eq_map_some_of_allSome (hw h2)
    obtain ⟨c, u, -, -, hd⟩ := microEvent_micro hmicro
    exact exec_round_exists hi (wf_encode_of_decodeUop hd).1 hm hws (by simpa [hws] using hlen)
  · have hmin := le_uplen s.params.variant
    obtain ⟨m, hm⟩ := exists_eq_map_some_of_all? (hst (hne (k := 0) (by omega)))
    exact ⟨_, exec_storeblock_next.mpr ⟨m, hm, rfl⟩⟩

/-- Settles O51: the reset, the wait and the accept step always answer a next state, and a micro step does by the invariant. -/
theorem noStepOfTheCoreStops : Obligations.NoStepOfTheCoreStops := by
  intro s h hb
  rcases event_cases s with ⟨-, he⟩ | ⟨hr, ⟨x, hx, -⟩ | ⟨-, hm, -⟩ | ⟨-, hm, hq, -⟩ | ⟨-, -, -, he⟩⟩
  · exact ⟨_, step_of_reset he⟩
  · cases hb.symm.trans hx
  · obtain ⟨i, he⟩ := event_micro_of_inv h hr hb hm
    obtain ⟨u, hu⟩ := exec_micro_of_inv h he
    exact ⟨_, step_of_micro he hu⟩
  · exact ⟨_, step_accept hr hb hm hq⟩
  · exact ⟨_, step_of_idle he⟩

/-! ### The reset (R230, R31) -/

/-- Settles O37: the registers of the reset step, written out. -/
theorem resetStepClearsTheCore : Obligations.ResetStepClearsTheCore := fun _ hr => step_of_reset (event_reset hr)

/-- Settles O38: the fields of a core just reset, one by one. -/
theorem stateAfterReset : Obligations.StateAfterReset :=
  ⟨fun _ => ⟨rfl, rfl, rfl, rfl, rfl, rfl, rfl, rfl, rfl, rfl, rfl, rfl, rfl⟩, rfl⟩

/-! ### The steps outside RUN, and a command in RUN (R185, R232, R235) -/

theorem step_of_event_command {s : State} {i : Instr} (he : s.event = .command i) : step s = onNext State.tick (exec i s) := by
  simp only [step, he]

/-- Settles O39: a state that waits calls for the presented command or for nothing. -/
theorem aReadyStepRunsThePresentedCommand : Obligations.AReadyStepRunsThePresentedCommand := by
  intro s hr hb hm
  have he := event_ready hr hb hm
  refine ⟨fun hq => ?_, fun hq => ?_⟩
  · rw [hq] at he
    exact step_of_event_command he
  · rw [hq] at he
    rw [step_of_idle he, State.tick, hb]

/-- The accept step is not enabled in RUN. -/
theorem accept_run {s : State} (c : BitVec 1) (hm : s.mode = .run) : s.accept c = s := by
  rcases accept_cases s c with ⟨-, ha⟩ | ⟨hne, -⟩
  · exact ha
  · exact absurd hm hne

/-- Settles O30: either command is the accept step. -/
theorem commandsWhileRunningHaveNoEffect : Obligations.CommandsWhileRunningHaveNoEffect := fun s hm =>
  ⟨(exec_decodeCmd 0 s).trans (by rw [accept_run 0 hm]), (exec_decodeCmd 1 s).trans (by rw [accept_run 1 hm])⟩

/-! ### The bench (log 5, log 6) -/

theorem step_of_event_unit {s : State} {i : Instr} (he : s.event = .unit i) : step s = onNext State.tick (exec i s) := by
  simp only [step, he]

/-- Settles O41: by what the word on the bench decodes to, and its format. -/
theorem aBenchStepEvaluatesTheUnit : Obligations.ABenchStepEvaluatesTheUnit := by
  intro s x hr hb
  have he := event_bench hr hb
  refine ⟨?_, fun why hd => ?_, fun i hx hd => ?_⟩
  · rintro f i rfl hd
    have hunit : s.event = .unit i := by simp only [he, benchEvent, hd]
    refine ⟨step_of_event_unit hunit, fun t ht => ?_⟩
    obtain ⟨r, rfl⟩ := exec_func_frame hd ht
    exact ⟨r, rfl, (step_of_event_unit hunit).trans (congrArg (onNext State.tick) ht)⟩
  · exact step_of_refuse (by simp only [he, benchEvent, hd])
  · refine step_of_refuse ?_
    rw [he, benchEvent, hd]
    cases x with
    | func f => exact absurd rfl (hx f)
    | cmd c => rfl
    | uop u => rfl

/-! ### Who writes each register (R31) -/

/-- The accept step does not touch the parameters, `ST` and `W`. -/
theorem accept_frame (s : State) (c : BitVec 1) :
    (s.accept c).params = s.params ∧ (s.accept c).st = s.st ∧ (s.accept c).w = s.w := by
  rcases accept_cases s c with ⟨-, ha⟩ | ⟨-, ⟨e, -, ha⟩ | ⟨-, ha⟩⟩ <;> rw [ha] <;> exact ⟨rfl, rfl, rfl⟩

theorem st_writer {s u : State} {i : Instr} (hi : IsMicro i) (hx : exec i s = .next u) (hne : u.st ≠ s.st) :
    i = .loadblock ∨ IsRound i := by
  cases exec_micro_writes hi hx with
  | st hi m hu => exact hi
  | w ws hu hlen => exact absurd (hu ▸ rfl) hne
  | out b hu => exact absurd (hu ▸ rfl) hne

theorem w_writer {s u : State} {i : Instr} (hi : IsMicro i) (hx : exec i s = .next u) (hne : u.w ≠ s.w) : i = .keyexpand := by
  cases exec_micro_writes hi hx with
  | st hi m hu => exact absurd (hu ▸ rfl) hne
  | w ws hu hlen => rfl
  | out b hu => exact absurd (hu ▸ rfl) hne

theorem out_writer {s u : State} {i : Instr} (hi : IsMicro i) (hx : exec i s = .next u) (hne : u.out ≠ s.out) :
    i = .storeblock := by
  cases exec_micro_writes hi hx with
  | st hi m hu => exact absurd (hu ▸ rfl) hne
  | w ws hu hlen => exact absurd (hu ▸ rfl) hne
  | out b hu => rfl

/-- What holds of a round transformation holds of one of the seven. -/
theorem IsRound.cases {p : Instr → Prop} {i : Instr} (hi : IsRound i) (h : p i) :
    (∃ rnd, p (.addroundkey rnd)) ∨ p .subbytes ∨ p .shiftrows ∨ p .mixcolumns ∨ p .invsubbytes ∨ p .invshiftrows ∨
      p .invmixcolumns := by
  cases i with
  | addroundkey rnd => exact .inl ⟨rnd, h⟩
  | subbytes => exact .inr (.inl h)
  | shiftrows => exact .inr (.inr (.inl h))
  | mixcolumns => exact .inr (.inr (.inr (.inl h)))
  | invsubbytes => exact .inr (.inr (.inr (.inr (.inl h))))
  | invshiftrows => exact .inr (.inr (.inr (.inr (.inr (.inl h)))))
  | invmixcolumns => exact .inr (.inr (.inr (.inr (.inr (.inr h)))))
  | loadblock | keyexpand | storeblock | encode | decode | xtime | gfmult | mul02 | mul03 | mul09 | mul0b | mul0d | mul0e | rcon
  | subbyte | invsubbyte | subword | rotword => exact hi.elim

/-- Settles O47: by what a step can do; a micro step's writers are its micro-operation and, after the last index, the
completion. -/
theorem registerWriters : Obligations.RegisterWriters := by
  intro s t hstep reset accepting completing runs
  rcases step_cases hstep with ⟨he, rfl⟩ | ⟨-, rfl⟩ | ⟨i, u, he, hx, rfl⟩ | ⟨i, u, he, hx, rfl⟩ | ⟨i, u, he, hx, rfl⟩
  · have hreset : reset := event_eq_reset he
    exact ⟨rfl, fun _ => .inl hreset, fun _ => .inl hreset, fun _ => .inl hreset, fun _ => .inl hreset, fun _ => .inl hreset,
      fun _ => .inl hreset⟩
  · exact ⟨rfl, absurd rfl, absurd rfl, by simp, absurd rfl, absurd rfl, absurd rfl⟩
  · obtain ⟨hr, -, hm, hq, rfl⟩ := event_eq_command he
    rw [exec_decodeCmd] at hx
    obtain rfl := Host.Outcome.next.inj hx
    obtain ⟨hpar, hst, hw⟩ := accept_frame s s.pins.cmd
    have haccept : accepting := ⟨hr, hm, hq⟩
    exact ⟨hpar, absurd hst, absurd hw, fun _ => .inr (.inr haccept), fun _ => .inr (.inl haccept), fun _ => .inr haccept,
      fun _ => .inr (.inl haccept)⟩
  · obtain ⟨hr, -, hm, -⟩ := event_eq_micro he
    obtain ⟨hlt, hi, -, -⟩ := event_micro_fetch he
    have hframe := exec_micro_frame hi hx
    obtain ⟨-, hupc, hpar⟩ := exec_micro_mode hi hx
    have hrq : ¬ (u.rqCmd ≠ s.rqCmd ∨ u.rqKey ≠ s.rqKey ∨ u.rqBlock ≠ s.rqBlock) := by rw [hframe]; simp
    have hout : u.out ≠ s.out → reset ∨ accepting ∨ runs .storeblock := fun hne =>
      .inr (.inr ⟨hr, hm, out_writer hi hx hne ▸ he⟩)
    have herr : u.err = s.err := by rw [hframe]
    rw [State.endMicro]
    rcases advance_cases u with ⟨-, ha⟩ | ⟨hlast, ha⟩
    · rw [ha]
      refine ⟨hpar, fun hne => .inr (.inr ?_), fun hne => .inr (.inr ⟨hr, hm, w_writer hi hx hne ▸ he⟩),
        fun h => absurd h hrq, hout, absurd herr, fun _ => .inr (.inr hm)⟩
      rcases st_writer hi hx hne with rfl | hround
      · exact .inl ⟨hr, hm, he⟩
      · exact .inr (hround.cases (p := runs) ⟨hr, hm, he⟩)
    · have hcomplete : completing := by
        rw [hupc, hpar] at hlast
        have hlen : s.params.variant.uplen = 4 * s.params.variant.nr + 3 := rfl
        exact ⟨hr, hm, by omega⟩
      rw [ha]
      exact ⟨hpar, fun _ => .inr (.inl hcomplete), fun _ => .inr (.inl hcomplete), fun _ => .inr (.inl hcomplete), hout,
        absurd herr, fun _ => .inr (.inr hm)⟩
  · obtain ⟨-, f, -, hd⟩ := event_eq_unit he
    obtain ⟨r, rfl⟩ := exec_func_frame hd hx
    exact ⟨rfl, absurd rfl, absurd rfl, by simp, absurd rfl, absurd rfl, absurd rfl⟩

/-! ### RUN pays no heed to the inputs (R235, R236) -/

theorem endMicro_with_pins (s : State) (p : Pins) :
    State.endMicro { s with pins := p } = { s.endMicro with pins := s.script.headD p } := by
  simp only [State.endMicro, State.advance]
  split <;> rfl

/-- A micro-operation does not read the input levels and leaves them as they are. -/
theorem exec_micro_with_pins {s u : State} {i : Instr} (hi : IsMicro i) (hx : exec i s = .next u) (p : Pins) :
    exec i { s with pins := p } = .next { u with pins := p } := by
  refine (exec_withControl hi s { s with pins := p }).trans ?_
  rw [hx, exec_micro_frame hi hx]
  rfl

/-- Settles O48: a step that answers a next state is a micro step, whose fetch and micro-operation do not read the input levels. -/
theorem runningIgnoresTheInputs : Obligations.RunningIgnoresTheInputs := by
  intro s t p hm hb hr hp hstep
  refine ⟨by simp [State.ready, hm], ?_⟩
  have hevent : State.event { s with pins := p } = s.event :=
    (event_run (s := { s with pins := p }) hp hb hm).trans (event_run hr hb hm).symm
  rcases step_cases hstep with ⟨he, -⟩ | ⟨he, -⟩ | ⟨i, u, he, -, -⟩ | ⟨i, u, he, hx, rfl⟩ | ⟨i, u, he, -, -⟩
  · cases hr.symm.trans (event_eq_reset he)
  · obtain ⟨-, -, hm', -⟩ := event_eq_idle he
    exact absurd hm hm'
  · obtain ⟨-, -, hm', -⟩ := event_eq_command he
    exact absurd hm hm'
  · obtain ⟨-, hi, -, -⟩ := event_micro_fetch he
    have hscript : u.script = s.script := by rw [exec_micro_frame hi hx]
    rw [step_of_micro (hevent.trans he) (exec_micro_with_pins hi hx p), endMicro_with_pins, hscript]
  · obtain ⟨-, f, hb', -⟩ := event_eq_unit he
    cases hb.symm.trans hb'

/-! ### The port block_out (R23, R187, R237) -/

theorem blockOut_of_done {s : State} {b : Seq16 Byte} (hm : s.mode = .done) (hout : s.out = b.map some) :
    s.blockOut = .ok (packBlock b) := by
  rw [blockOut_done hm, readOut_ok.mpr hout]
  rfl

/-- Settles O44: in DONE the port is a read of OUT, and a step in which the core waits keeps OUT and DONE. -/
theorem blockOutCarriesTheResult : Obligations.BlockOutCarriesTheResult := by
  intro s b hm hout
  have hport := blockOut_of_done hm hout
  refine ⟨⟨_, hport, packBlock_extractLsb' b⟩, fun hr hb hq => ⟨s.tick, step_of_idle ?_, hm, ?_⟩⟩
  · rw [event_ready hr hb (by simp [hm]), hq]
    rfl
  · exact (blockOut_of_done (s := s.tick) hm hout).trans hport.symm

/-! ### A read of a register that holds none (R30, U5) -/

/-- A meaning that reads `ST` stops with the fault of that name where `ST` holds none. -/
theorem reading_st_none {s : State} (h : s.st.all? = none) (k : Grid Byte → Host.Outcome State Fault Refusal) :
    reading s.readSt k = .fault (.readNone .st) := by
  rw [readSt_error.mpr ⟨h, rfl⟩, reading_error]

/-- R66 c: the round operand is tested before any register is read. -/
theorem exec_addroundkey_of_le {s : State} {rnd : BitVec 4} (h : rnd.toNat ≤ s.params.variant.nr) :
    exec (.addroundkey rnd) s =
      reading s.readSt fun m => reading (s.readRoundKey rnd.toNat) fun k => .next (s.writeSt (addRoundKey k m)) := if_pos h

/-- Settles O17: the word is ADDROUNDKEY's opcode above the operand. -/
theorem addroundkeyAboveNrIsRefused : Obligations.AddroundkeyAboveNrIsRefused := by
  intro s rnd h
  rw [← addroundkey_word]
  exact if_neg h.not_ge

/-- An index inside `W` is read, or holds none. -/
theorem readW_error_of_lt {s : State} {i : Nat} {f : Fault} (hi : i < s.w.length) (h : s.readW i = .error f) :
    f = .readNone .w := by
  unfold State.readW at h
  rw [List.getElem?_eq_getElem hi] at h
  cases hx : s.w[i] <;> simp_all

/-- A round key that is not read has a word that is not. -/
theorem readRoundKey_error {s : State} {rnd : Nat} {f : Fault} (h : s.readRoundKey rnd = .error f) :
    ∃ c : Fin 4, s.readW (nb * rnd + c.val) = .error f := by
  unfold State.readRoundKey at h
  split at h <;> cases h
  · exact ⟨0, ‹_›⟩
  · exact ⟨1, ‹_›⟩
  · exact ⟨2, ‹_›⟩
  · exact ⟨3, ‹_›⟩

theorem readRoundKey_none {s : State} {rnd : Nat} (hlen : nb * rnd + 3 < s.w.length)
    (h : ∃ c : Fin 4, s.w[nb * rnd + c.val]? = some none) : s.readRoundKey rnd = .error (.readNone .w) := by
  cases hk : s.readRoundKey rnd with
  | ok k =>
    obtain ⟨c, hc⟩ := h
    cases hc.symm.trans (readRoundKey_ok.mp hk c)
  | error f =>
    obtain ⟨c, hc⟩ := readRoundKey_error hk
    rw [readW_error_of_lt (by omega) hc]

/-- Settles O45: each operation begins with the read of its register. -/
theorem aReadOfNoneFaults : Obligations.AReadOfNoneFaults := by
  intro s
  refine ⟨fun hst => ⟨fun i hi => ?_, fun rnd hr => ?_⟩, fun hb => ?_, fun hk hlen => ?_, fun rnd m hr hst hlen hc => ?_,
    fun hm hout => ?_, fun hm => ⟨_, blockOut_not_done hm⟩⟩
  · simp only [List.mem_cons, List.not_mem_nil, or_false] at hi
    rcases hi with rfl | rfl | rfl | rfl | rfl | rfl | rfl <;> exact reading_st_none hst _
  · rw [exec_addroundkey_of_le hr, reading_st_none hst]
  · show reading s.readRqBlock _ = _
    simp only [State.readRqBlock, readAll, hb, reading_error]
  · show reading s.readRqKey _ = _
    simp only [State.readRqKey, if_pos hlen, readAll, hk, reading_error]
  · have hlt : nb * rnd.toNat + 3 < s.w.length := by
      rw [hlen, Variant.nwords, nb]
      omega
    rw [exec_addroundkey_of_le hr, readSt_ok.mpr hst, reading_ok, readRoundKey_none hlt hc, reading_error]
  · rw [blockOut_done hm, readOut_error.mpr ⟨hout, rfl⟩]
    rfl

end Sys2Proof.Machine
end

section
/-! GF(2^8) arithmetic, continued (spec file 40): the product as a sum of doublings, the constant multipliers, the period of RCON;
and the FIPS-197 table (R106). -/

namespace Sys2Proof.Machine

/-! ### The product as a sum of doublings (R81) -/

/-- Iteration `i` of the loop of GFMULT adds the operand doubled `i` times where bit `i` is set. -/
theorem gfLoop_eq_foldl_doublings (n : Nat) (p a b : Byte) :
    gfLoop n p a b = (List.range n).foldl (fun q i => if b.getLsbD i then q ^^^ xtime^[i] a else q) p := by
  induction n generalizing p a b with
  | zero => rfl
  | succ n ih =>
    rw [gfLoop, ih, List.range_succ_eq_map, List.foldl_cons, List.foldl_map]
    simp only [BitVec.getLsbD_ushiftRight, Nat.add_comm 1, Function.iterate_succ_apply, Function.iterate_zero_apply]

theorem gfMult_xor_right (a b c : Byte) : gfMult a (b ^^^ c) = gfMult a b ^^^ gfMult a c := by
  rw [gfMult_comm, gfMult_xor_left, gfMult_comm b, gfMult_comm c]

/-! ### Multiplication by a constant is a bijection (R80, R92) -/

/-- Two bytes with one product differ by a byte whose product is 0. -/
theorem gfMult_injective {c : Byte} (hc : c ≠ 0) : Function.Injective (gfMult c) := by
  intro a b h
  by_contra hne
  have hdiff : gfMult c (a ^^^ b) = 0 := (gfMult_xor_right c a b).trans (h ▸ BitVec.xor_self)
  exact gfMult_ne_zero hc (mt BitVec.xor_eq_zero_iff.mp hne) hdiff

theorem gfMult_bijective {c : Byte} (hc : c ≠ 0) : Function.Bijective (gfMult c) :=
  Finite.injective_iff_bijective.mp (gfMult_injective hc)

/-- XTIME is the product with x (R80). -/
theorem xtime_eq_gfMult (a : Byte) : xtime a = gfMult 0x02 a := by
  rw [← one_gfMult a, ← gfMult_xtime_left, one_gfMult]
  rfl

theorem xtime_bijective : Function.Bijective xtime := by
  rw [funext xtime_eq_gfMult]
  exact gfMult_bijective (by decide)

/-- Settles O3: the loop unrolled; the product is linear on either side; XTIME is the product with a non-zero byte. -/
theorem gfmultDistributesOverXor : Obligations.GfmultDistributesOverXor :=
  ⟨fun a b => gfLoop_eq_foldl_doublings 8 0 a b, fun a b c => ⟨gfMult_xor_right a b c, gfMult_xor_left a b c, xtime_xor a b⟩,
    xtime_bijective⟩

/-! ### The constant multipliers (R84 to R89, R92) -/

section XtimeForms

variable (a : Byte)

theorem mul02_eq_xtime : mul02 a = xtime a := (xtime_eq_gfMult a).symm

theorem mul03_eq_xtime : mul03 a = xtime a ^^^ a := by
  have hc : (0x03 : Byte) = xtime 1 ^^^ 1 := by decide
  rw [mul03, hc]
  simp only [gfMult_xor_left, gfMult_xtime_left, one_gfMult]

theorem mul09_eq_xtime : mul09 a = xtime (xtime (xtime a)) ^^^ a := by
  have hc : (0x09 : Byte) = xtime (xtime (xtime 1)) ^^^ 1 := by decide
  rw [mul09, hc]
  simp only [gfMult_xor_left, gfMult_xtime_left, one_gfMult]

theorem mul0b_eq_xtime : mul0b a = xtime (xtime (xtime a)) ^^^ xtime a ^^^ a := by
  have hc : (0x0B : Byte) = xtime (xtime (xtime 1)) ^^^ xtime 1 ^^^ 1 := by decide
  rw [mul0b, hc]
  simp only [gfMult_xor_left, gfMult_xtime_left, one_gfMult]

theorem mul0d_eq_xtime : mul0d a = xtime (xtime (xtime a)) ^^^ xtime (xtime a) ^^^ a := by
  have hc : (0x0D : Byte) = xtime (xtime (xtime 1)) ^^^ xtime (xtime 1) ^^^ 1 := by decide
  rw [mul0d, hc]
  simp only [gfMult_xor_left, gfMult_xtime_left, one_gfMult]

theorem mul0e_eq_xtime : mul0e a = xtime (xtime (xtime a)) ^^^ xtime (xtime a) ^^^ xtime a := by
  have hc : (0x0E : Byte) = xtime (xtime (xtime 1)) ^^^ xtime (xtime 1) ^^^ xtime 1 := by decide
  rw [mul0e, hc]
  simp only [gfMult_xor_left, gfMult_xtime_left, one_gfMult]

end XtimeForms

/-- A unit that shows `x` shows whatever `x` equals. -/
theorem next_showing_byte (s : State) {x y : Byte} (h : x = y) :
    (.next (s.showing (.byte x)) : Host.Outcome State Fault Refusal) = .next (s.showing (.byte y)) := by rw [h]

/-- Settles O4: each constant as a sum of doublings of 1, and the product with it as that sum of doublings of the operand. -/
theorem constantMultipliersInXtimeForm : Obligations.ConstantMultipliersInXtimeForm :=
  ⟨rfl, fun s => ⟨next_showing_byte s (mul02_eq_xtime _), next_showing_byte s (mul03_eq_xtime _),
    next_showing_byte s (mul09_eq_xtime _), next_showing_byte s (mul0b_eq_xtime _), next_showing_byte s (mul0d_eq_xtime _),
    next_showing_byte s (mul0e_eq_xtime _)⟩⟩

/-- Settles O5: each is the product with a non-zero byte. -/
theorem constantMultipliersAreBijections : Obligations.ConstantMultipliersAreBijections := by
  intro f hf
  have product {c : Byte} (hc : c ≠ 0) :
      (∀ a, gfMult c a = gfMult c a) ∧ gfMult c 0 = 0 ∧ Function.Bijective (gfMult c) :=
    ⟨fun _ => rfl, gfMult_zero c, gfMult_bijective hc⟩
  simp only [List.mem_cons, List.not_mem_nil, or_false] at hf
  rcases hf with rfl | rfl | rfl | rfl | rfl | rfl <;> exact product (by decide)

/-! ### RCON (R91) -/

/-- Doubling 1 fifty-one times gives 1 again. -/
theorem xtime_iterate_period : xtime^[51] 1 = 1 := by decide +kernel

theorem xtime_iterate_ne_zero (n : Nat) : xtime^[n] 1 ≠ 0 := fun h => by
  have hzero : xtime^[n] 0 = 0 := Function.iterate_fixed (by decide) n
  exact absurd (xtime_bijective.injective.iterate n (h.trans hzero.symm)) (by decide)

theorem rcon_add_period (i : Nat) (h : 1 ≤ i) : rcon (i + 51) (Nat.le_add_right_of_le h) = rcon i h := by
  have hi : i + 51 - 1 = i - 1 + 51 := by omega
  rw [rcon_eq_iterate, rcon_eq_iterate, hi, Function.iterate_add_apply, xtime_iterate_period]

/-- The top byte of RCON's word is a power of x. -/
theorem rcon_ne_zero (i : Nat) (h : 1 ≤ i) : rcon i h ≠ 0 := fun h0 => by
  have htop : wordByte (rcon i h) 0 = xPower (i - 1) := wordByte_wordOf ![xPower (i - 1), 0, 0, 0] 0
  rw [h0, xPower_eq_iterate] at htop
  exact xtime_iterate_ne_zero (i - 1) htop.symm

/-- Settles O7: fifteen doublings of 1; the period by that of the doublings. -/
theorem rconValuesAndPeriod : Obligations.RconValuesAndPeriod :=
  ⟨by decide, fun _ => exec_rcon, by decide +kernel, fun i h => ⟨rcon_add_period i h, rcon_ne_zero i h⟩⟩

/-! ### The FIPS-197 table (R106) -/

/-- `x` is the multiplicative inverse of `b`, that of 0 being 0. -/
abbrev IsFieldInverse (b x : Byte) : Prop := if b = 0 then x = 0 else gfMult b x = 1

theorem IsFieldInverse.ne_zero {b x : Byte} (h : IsFieldInverse b x) (hb : b ≠ 0) : x ≠ 0 := by
  rintro rfl
  rw [IsFieldInverse, if_neg hb, gfMult_zero] at h
  cases h

/-- The inverse of the inverse is the byte, by cancelling the inverse. -/
theorem IsFieldInverse.eq {b x b' : Byte} (h : IsFieldInverse b x) (h' : IsFieldInverse x b') : b' = b := by
  by_cases hb : b = 0
  · rw [IsFieldInverse, if_pos hb] at h
    rw [IsFieldInverse, if_pos h] at h'
    rw [h', hb]
  · have hx := h.ne_zero hb
    rw [IsFieldInverse, if_neg hb, gfMult_comm] at h
    rw [IsFieldInverse, if_neg hx] at h'
    exact gfMult_injective hx (h'.trans h.symm)

/-- The affine map of R106, with constant 0x63. -/
def affine (x : Byte) : Byte :=
  x ^^^ x.rotateLeft 4 ^^^ x.rotateLeft 3 ^^^ x.rotateLeft 2 ^^^ x.rotateLeft 1 ^^^ 0x63

/-- The inverse of the affine map. -/
def affineInverse (y : Byte) : Byte := y.rotateLeft 1 ^^^ y.rotateLeft 3 ^^^ y.rotateLeft 6 ^^^ 0x05

/-- Checked at each of the 256 bytes. -/
theorem affine_affineInverse : ∀ y : Byte, affine (affineInverse y) = y := by decide +kernel

/-- The map bit by bit, as R106 writes it: bit `i` of the rotation by `8 - k` is bit `i + k`. -/
theorem affine_getLsbD (x : Byte) (i : Fin 8) : (affine x).getLsbD i.val =
    (x.getLsbD i.val ^^ x.getLsbD ((i.val + 4) % 8) ^^ x.getLsbD ((i.val + 5) % 8) ^^ x.getLsbD ((i.val + 6) % 8)
      ^^ x.getLsbD ((i.val + 7) % 8) ^^ (0x63#8).getLsbD i.val) := by
  fin_cases i <;> simp [affine]

/-- Checked at each entry of the first table: undoing the affine map gives the field inverse of the entry's index. -/
theorem sboxFips197_entries :
    ∀ p ∈ sboxFips197.bytes.zipIdx, IsFieldInverse (BitVec.ofNat 8 p.2) (affineInverse p.1) ∧ p.1.toNat ≠ p.2 := by
  decide +kernel

/-- Checked at each entry of the second table: it is the field inverse of the affine map undone at the entry's index. -/
theorem invFips197_entries : ∀ p ∈ invFips197.zipIdx, IsFieldInverse (affineInverse (BitVec.ofNat 8 p.2)) p.1 := by
  decide +kernel

theorem subByte_sboxFips197 (b : Byte) :
    IsFieldInverse b (affineInverse (subByte sboxFips197 b)) ∧ subByte sboxFips197 b ≠ b := by
  have hmem : (subByte sboxFips197 b, b.toNat) ∈ sboxFips197.bytes.zipIdx :=
    List.mem_zipIdx_iff_getElem?.mpr (bytes_getElem? sboxFips197 b)
  obtain ⟨hinv, hne⟩ := sboxFips197_entries _ hmem
  rw [BitVec.ofNat_toNat, BitVec.setWidth_eq] at hinv
  exact ⟨hinv, fun h => hne (congrArg BitVec.toNat h)⟩

theorem length_invFips197 : invFips197.length = 256 := by decide +kernel

/-- The second table undoes the first: the field inverse of the field inverse. -/
theorem invFips197_getElem? (y : Byte) : invFips197[y.toNat]? = some (invSubByte sboxFips197 y) := by
  obtain ⟨b, rfl⟩ := (subByte_bijective sboxFips197).surjective y
  obtain ⟨e, he⟩ : ∃ e, invFips197[(subByte sboxFips197 b).toNat]? = some e :=
    ⟨_, List.getElem?_eq_getElem (length_invFips197.symm ▸ (subByte sboxFips197 b).isLt)⟩
  have hmem : (e, (subByte sboxFips197 b).toNat) ∈ invFips197.zipIdx := List.mem_zipIdx_iff_getElem?.mpr he
  have hentry := invFips197_entries _ hmem
  rw [BitVec.ofNat_toNat, BitVec.setWidth_eq] at hentry
  obtain ⟨hinv, -⟩ := subByte_sboxFips197 b
  rw [he, invSubByte_subByte]
  exact congrArg some (hinv.eq hentry)

/-- Settles O58: each entry is the affine map of what undoing the affine map gives. -/
theorem theFipsTableIsAffineOfTheInverse : Obligations.TheFipsTableIsAffineOfTheInverse := by
  refine ⟨fun b => ⟨affineInverse (subByte sboxFips197 b), ?_, fun i => ?_⟩, invFips197_getElem?, fun b => ?_⟩
  · exact (subByte_sboxFips197 b).1
  · rw [← affine_getLsbD, affine_affineInverse]
  · exact (subByte_sboxFips197 b).2

end Sys2Proof.Machine
end

section
/-! The round transformations against their inverses (spec files 43 and 44): the two circulants undo each other, so do the
substitutions and the rotations; the column transformations are linear. -/

namespace Sys2Proof.Machine

/-! ### Circulants: a column times a matrix of which each row is the one above it moved one place (R143, R162) -/

/-- Row `r` of the product of the circulant with first row `a` and the column `f`. -/
def circulant (a : Fin 4 → Byte) (f : Fin 4 → Byte) (r : Fin 4) : Byte :=
  gfMult (a 0) (f r) ^^^ gfMult (a 1) (f (r + 1)) ^^^ gfMult (a 2) (f (r + 2)) ^^^ gfMult (a 3) (f (r + 3))

theorem circulant_xor (a f g : Fin 4 → Byte) (r : Fin 4) :
    circulant a (fun i => f i ^^^ g i) r = circulant a f r ^^^ circulant a g r := by
  simp only [circulant, gfMult_xor_right]
  ac_rfl

/-- The circulant with first row 1, 0, 0, 0 is the identity. -/
theorem circulant_one (f : Fin 4 → Byte) (r : Fin 4) : circulant ![1, 0, 0, 0] f r = f r := by
  show gfMult 1 (f r) ^^^ gfMult 0 _ ^^^ gfMult 0 _ ^^^ gfMult 0 _ = f r
  rw [one_gfMult, zero_gfMult, zero_gfMult, zero_gfMult]
  simp

/-- The product of two circulants is one: entry `k` of its first row is the sum of `a i * b j` over `i + j = k`. -/
theorem circulant_circulant (a b f : Fin 4 → Byte) (r : Fin 4) :
    circulant a (circulant b f) r = circulant (fun k => circulant a (fun i => b (k - i)) 0) f r := by
  simp only [circulant, gfMult_xor_right, gfMult_xor_left, ← gfMult_assoc]
  match r with
  | 0 | 1 | 2 | 3 =>
    simp only [Fin.reduceAdd, Fin.reduceSub]
    ac_rfl

/-- The first row of MIXCOLUMNS' matrix (R143). -/
def mixRow : Fin 4 → Byte := ![0x02, 0x03, 0x01, 0x01]

/-- The first row of INVMIXCOLUMNS' matrix (R162). -/
def invMixRow : Fin 4 → Byte := ![0x0E, 0x0B, 0x0D, 0x09]

/-- Either product of the two matrices has the first row 1, 0, 0, 0. -/
theorem invMixRow_mul_mixRow : (fun k => circulant invMixRow (fun i => mixRow (k - i)) 0) = ![1, 0, 0, 0] := by decide

theorem mixRow_mul_invMixRow : (fun k => circulant mixRow (fun i => invMixRow (k - i)) 0) = ![1, 0, 0, 0] := by decide

theorem mixColumns_cell (m : Grid Byte) (r c : Fin 4) :
    (mixColumns m).cell r c = circulant mixRow (fun i => m.cell i c) r := by
  rw [mixColumns, Grid.cell_ofFn, mixColumn_get fun i => m.cell i c]
  show _ = gfMult 0x02 _ ^^^ gfMult 0x03 _ ^^^ gfMult 1 _ ^^^ gfMult 1 _
  rw [one_gfMult, one_gfMult]

theorem invMixColumns_cell (m : Grid Byte) (r c : Fin 4) :
    (invMixColumns m).cell r c = circulant invMixRow (fun i => m.cell i c) r := by
  rw [invMixColumns, Grid.cell_ofFn, invMixColumn_get fun i => m.cell i c]
  rfl

/-! ### Each transformation undoes its inverse -/

theorem invMixColumns_mixColumns (m : Grid Byte) : invMixColumns (mixColumns m) = m :=
  Grid.ext_cell fun r c => by
    simp only [invMixColumns_cell, mixColumns_cell]
    exact (circulant_circulant ..).trans (invMixRow_mul_mixRow ▸ circulant_one ..)

theorem mixColumns_invMixColumns (m : Grid Byte) : mixColumns (invMixColumns m) = m :=
  Grid.ext_cell fun r c => by
    simp only [invMixColumns_cell, mixColumns_cell]
    exact (circulant_circulant ..).trans (mixRow_mul_invMixRow ▸ circulant_one ..)

theorem invShiftRows_shiftRows (m : Grid Byte) : invShiftRows (shiftRows m) = m :=
  Grid.ext_cell fun r c => by simp [invShiftRows, shiftRows]

theorem shiftRows_invShiftRows (m : Grid Byte) : shiftRows (invShiftRows m) = m :=
  Grid.ext_cell fun r c => by simp [invShiftRows, shiftRows]

theorem invSubBytes_subBytes (t : SubstTable) (m : Grid Byte) : invSubBytes t (subBytes t m) = m :=
  Grid.ext_cell fun r c => by simp [invSubBytes, subBytes]

theorem subBytes_invSubBytes (t : SubstTable) (m : Grid Byte) : subBytes t (invSubBytes t m) = m :=
  Grid.ext_cell fun r c => by simp [invSubBytes, subBytes]

theorem addRoundKey_addRoundKey (k : Quad Word) (m : Grid Byte) : addRoundKey k (addRoundKey k m) = m :=
  Grid.ext_cell fun r c => by simp [addRoundKey]

/-- Byte `r + 4*c` of the matrix's block is the byte that it was loaded from (R180, R181). -/
theorem storeBlock_loadBlock (b : Seq16 Byte) : storeBlock (loadBlock b) = b :=
  Seq16.ext_get fun i => by
    have hi : i.val % 4 + 4 * (i.val / 4) = i.val := Nat.mod_add_div ..
    simp [storeBlock, loadBlock, hi]

theorem loadBlock_storeBlock (m : Grid Byte) : loadBlock (storeBlock m) = m :=
  Grid.ext_cell fun r c => by rw [loadBlock, Grid.cell_ofFn, storeBlock_get]

/-! ### The transformations as micro-operations -/

/-- Writing back the matrix that `ST` holds changes nothing. -/
theorem holding_self {s : State} {m : Grid Byte} (hst : s.st = m.map some) : s.holding m = s := by
  rw [State.holding, ← hst]

/-- Two micro-operations that apply `f` and then `g` where `ST` holds a matrix, `g` undoing `f`, restore the state. -/
theorem exec_undone {i j : Instr} {f g : Grid Byte → Grid Byte} {s : State} {m : Grid Byte} (hst : s.st = m.map some)
    (hi : exec i s = .next (s.holding (f m)))
    (hj : ∀ m' : Grid Byte, exec j (s.holding m') = .next (s.holding (g m'))) (hundo : g (f m) = m) :
    ∃ t, exec i s = .next t ∧ exec j t = .next s :=
  ⟨_, hi, by rw [hj, hundo, holding_self hst]⟩

/-- Settles O24: each micro-operation applies its function to the matrix in `ST`, and the two functions undo each other. -/
theorem roundTransformationsAreUndone : Obligations.RoundTransformationsAreUndone := by
  refine ⟨fun s b hb => ?_, fun s m hst => ⟨fun p hp => ?_, fun rnd k hr hk => ?_⟩⟩
  · refine ⟨_, exec_loadblock_next.mpr ⟨b, hb, rfl⟩, exec_storeblock_next.mpr ⟨loadBlock b, rfl, ?_⟩⟩
    rw [storeBlock_loadBlock]
    rfl
  · simp only [List.mem_cons, List.not_mem_nil, or_false] at hp
    rcases hp with rfl | rfl | rfl | rfl | rfl | rfl
    · exact exec_undone hst (exec_shiftrows_of_st hst) (fun _ => exec_invshiftrows_of_st rfl) (invShiftRows_shiftRows m)
    · exact exec_undone hst (exec_invshiftrows_of_st hst) (fun _ => exec_shiftrows_of_st rfl) (shiftRows_invShiftRows m)
    · exact exec_undone hst (exec_subbytes_of_st hst) (fun _ => exec_invsubbytes_of_st rfl) (invSubBytes_subBytes _ m)
    · exact exec_undone hst (exec_invsubbytes_of_st hst) (fun _ => exec_subbytes_of_st rfl) (subBytes_invSubBytes _ m)
    · exact exec_undone hst (exec_mixcolumns_of_st hst) (fun _ => exec_invmixcolumns_of_st rfl) (invMixColumns_mixColumns m)
    · exact exec_undone hst (exec_invmixcolumns_of_st hst) (fun _ => exec_mixcolumns_of_st rfl) (mixColumns_invMixColumns m)
  · exact exec_undone (g := addRoundKey k) hst (exec_addroundkey_of_st hst hr hk) (fun _ => exec_addroundkey_of_st rfl hr hk)
      (addRoundKey_addRoundKey k m)

/-! ### Linearity of the column transformations (R143, R164) -/

/-- The XOR of two matrices. -/
abbrev xorGrid (m n : Grid Byte) : Grid Byte := Grid.ofFn fun r c => m.cell r c ^^^ n.cell r c

theorem mixColumns_xorGrid (m n : Grid Byte) : mixColumns (xorGrid m n) = xorGrid (mixColumns m) (mixColumns n) :=
  Grid.ext_cell fun r c => by simp only [mixColumns_cell, Grid.cell_ofFn, circulant_xor]

theorem invMixColumns_xorGrid (m n : Grid Byte) :
    invMixColumns (xorGrid m n) = xorGrid (invMixColumns m) (invMixColumns n) :=
  Grid.ext_cell fun r c => by simp only [invMixColumns_cell, Grid.cell_ofFn, circulant_xor]

theorem xorGrid_right_injective (m : Grid Byte) : Function.Injective (xorGrid m) := fun a b h =>
  Grid.ext_cell fun r c => by simpa using congrArg (fun g => g.cell r c) h

/-- Settles O25: linearity entry by entry; the matrix of one byte 1 is not fixed. -/
theorem columnTransformationsAreLinear : Obligations.ColumnTransformationsAreLinear := by
  refine ⟨fun m n => ⟨mixColumns_xorGrid m n, invMixColumns_xorGrid m n, ?_⟩, ?_⟩
  · show invMixColumns (xorGrid m n) = xorGrid (invMixColumns m) n ↔ _
    rw [invMixColumns_xorGrid, (xorGrid_right_injective _).eq_iff]
  · exact ⟨Grid.ofFn fun _ _ => 0, Grid.ofFn fun r c => if r = 0 ∧ c = 0 then 1 else 0, by decide⟩

/-- Settles O26: both orders substitute the byte that the rotation brings. -/
theorem substitutionCommutesWithRotation : Obligations.SubstitutionCommutesWithRotation := fun t m =>
  ⟨Grid.ext_cell fun r c => by simp only [shiftRows, subBytes, Grid.cell_ofFn],
    Grid.ext_cell fun r c => by simp only [invShiftRows, invSubBytes, Grid.cell_ofFn]⟩

end Sys2Proof.Machine
end

section
/-! The key schedule and the transaction level (spec R125, R144, R163 to R165, R188, R189): what the schedule depends on; INVCIPHER
and CIPHER undo each other, and so do the two commands. -/

namespace Sys2Proof.Machine

/-! ### KEYEXPAND (R125) -/

/-- Settles O15: KEYEXPAND's words are a function of what the two states share. -/
theorem scheduleDependsOnTheKeyOnly : Obligations.ScheduleDependsOnTheKeyOnly := by
  intro s s' t hpar hkey hx
  obtain ⟨key, hk, hlen, rfl⟩ := exec_keyexpand_next.mp hx
  refine ⟨_, exec_keyexpand_next.mpr ⟨key, hkey ▸ hk, hpar ▸ hlen, rfl⟩, ?_⟩
  rw [State.writeW_w, State.writeW_w, hpar]

/-! ### The rounds undone (R165) -/

section Rounds

variable {α : Type} {f g : Nat → α → α} {e : α → α}

theorem foldl_rounds_up_succ (n : Nat) (x : α) :
    (List.range (n + 1)).foldl (fun y j => f (j + 1) y) x = f (n + 1) ((List.range n).foldl (fun y j => f (j + 1) y) x) := by
  rw [List.range_succ, List.foldl_concat]

theorem foldl_rounds_down_succ (n : Nat) (x : α) :
    (List.range (n + 1)).foldl (fun y j => g (n + 1 - j) y) x = (List.range n).foldl (fun y j => g (n - j) y) (g (n + 1) x) := by
  rw [List.range_succ_eq_map, List.foldl_cons, List.foldl_map]
  simp only [Nat.succ_eq_add_one, Nat.add_sub_add_right, Nat.sub_zero]

/-- Rounds `f 1` to `f n`, seen through `e`, are undone by `g n` to `g 1` where each `g r` undoes `f r` so. -/
theorem foldl_rounds_down_undo (h : ∀ r x, g r (e (f r x)) = e x) (n : Nat) (x : α) :
    (List.range n).foldl (fun y j => g (n - j) y) (e ((List.range n).foldl (fun y j => f (j + 1) y) x)) = e x := by
  induction n with
  | zero => rfl
  | succ n ih => rw [foldl_rounds_up_succ, foldl_rounds_down_succ, h, ih]

/-- Rounds `g n` to `g 1`, seen through `e`, are undone by `f 1` to `f n` where each `f r` undoes `g r` so. -/
theorem foldl_rounds_up_undo (h : ∀ r x, f r (e (g r x)) = e x) (n : Nat) (x : α) :
    (List.range n).foldl (fun y j => f (j + 1) y) (e ((List.range n).foldl (fun y j => g (n - j) y) x)) = e x := by
  induction n generalizing x with
  | zero => rfl
  | succ n ih => rw [foldl_rounds_up_succ, foldl_rounds_down_succ, ih, h]

end Rounds

/-- SUBBYTES and SHIFTROWS are undone by INVSHIFTROWS and INVSUBBYTES. -/
theorem invSub_invShift_shift_sub (t : SubstTable) (m : Grid Byte) :
    invSubBytes t (invShiftRows (shiftRows (subBytes t m))) = m := by
  rw [invShiftRows_shiftRows, invSubBytes_subBytes]

theorem shift_sub_invSub_invShift (t : SubstTable) (m : Grid Byte) :
    shiftRows (subBytes t (invSubBytes t (invShiftRows m))) = m := by
  rw [subBytes_invSubBytes, shiftRows_invShiftRows]

/-- Round `r` of INVCIPHER, entered with the round's SUBBYTES and SHIFTROWS still to undo, leaves those of the round before. -/
theorem invCipherRound_cipherRound (t : SubstTable) (ws : List Word) (r : Nat) (m : Grid Byte) :
    invCipherRound t ws (shiftRows (subBytes t (cipherRound t ws m r))) r = shiftRows (subBytes t m) := by
  rw [invCipherRound, invSub_invShift_shift_sub, cipherRound, addRoundKey_addRoundKey, invMixColumns_mixColumns]

theorem cipherRound_invCipherRound (t : SubstTable) (ws : List Word) (r : Nat) (m : Grid Byte) :
    cipherRound t ws (invSubBytes t (invShiftRows (invCipherRound t ws m r))) r = invSubBytes t (invShiftRows m) := by
  rw [cipherRound, shift_sub_invSub_invShift, invCipherRound, mixColumns_invMixColumns, addRoundKey_addRoundKey]

theorem invCipher_cipher (v : Variant) (t : SubstTable) (ws : List Word) (m : Grid Byte) :
    invCipher v t ws (cipher v t ws m) = m := by
  simp only [cipher, invCipher, addRoundKey_addRoundKey]
  rw [foldl_rounds_down_undo (f := fun r m => cipherRound t ws m r) (g := fun r m => invCipherRound t ws m r)
    (e := fun m => shiftRows (subBytes t m)) (invCipherRound_cipherRound t ws), invSub_invShift_shift_sub, addRoundKey_addRoundKey]

theorem cipher_invCipher (v : Variant) (t : SubstTable) (ws : List Word) (m : Grid Byte) :
    cipher v t ws (invCipher v t ws m) = m := by
  simp only [cipher, invCipher, addRoundKey_addRoundKey]
  rw [foldl_rounds_up_undo (f := fun r m => cipherRound t ws m r) (g := fun r m => invCipherRound t ws m r)
    (e := fun m => invSubBytes t (invShiftRows m)) (cipherRound_invCipherRound t ws), shift_sub_invSub_invShift,
    addRoundKey_addRoundKey]

/-- Settles O54: the ADDROUNDKEYs that meet cancel, then the rounds undo each other from the inside out. -/
theorem invcipherUndoesCipher : Obligations.InvcipherUndoesCipher := fun v t ws m =>
  ⟨invCipher_cipher v t ws m, cipher_invCipher v t ws m⟩

/-! ### OPERATE (R188, R189) -/

/-- The sequence of a command: CIPHER or INVCIPHER. -/
def sequence (v : Variant) (t : SubstTable) (c : BitVec 1) (ws : List Word) (m : Grid Byte) : Grid Byte :=
  if c = 0 then cipher v t ws m else invCipher v t ws m

theorem operate_error {p : Params} {key block : List Byte} {e : LengthError} (c : BitVec 1)
    (h : lengthError p.variant key.length block.length = some e) : operate p c key block = .error e := by
  simp only [operate, h]

theorem operate_ok {p : Params} {key block : List Byte} (c : BitVec 1)
    (h : lengthError p.variant key.length block.length = none) :
    operate p c key block = .ok (storeBlock
      (sequence p.variant p.sbox c (keyExpand p.variant p.sbox key) (loadBlock (blockOfList block)))) := by
  simp only [operate, h, sequence]

theorem blockOfList_toList (b : Seq16 Byte) : blockOfList b.toList = b :=
  Seq16.ext_get fun i => by
    rw [blockOfList, Seq16.get_ofFn, List.getD_eq_getElem _ _ (show i.val < b.toList.length from i.isLt)]
    exact b.getElem_toList i

/-- Settles O55: the length error by the key; else the sequences undo each other between the two conversions. -/
theorem decodingUndoesEncoding : Obligations.DecodingUndoesEncoding := by
  intro p key b
  have herr (c : BitVec 1) (hk : key.length ≠ p.variant.keyBytes) : operate p c key b.toList = .error .invalidKeyLength :=
    operate_error c (lengthError_of_key_ne hk _)
  refine ⟨fun hk => ?_, fun hk => ⟨herr 0 hk, herr 1 hk⟩⟩
  have hok (c : BitVec 1) (b : Seq16 Byte) :=
    operate_ok (p := p) (key := key) (block := b.toList) c (lengthError_eq_none.mpr ⟨hk, b.length_toList⟩)
  refine ⟨⟨_, hok 0 b, (hok 1 _).trans ?_⟩, ⟨_, hok 1 b, (hok 0 _).trans ?_⟩⟩
  · rw [blockOfList_toList, blockOfList_toList, loadBlock_storeBlock]
    exact congrArg Except.ok ((congrArg storeBlock (invCipher_cipher ..)).trans (storeBlock_loadBlock b))
  · rw [blockOfList_toList, blockOfList_toList, loadBlock_storeBlock]
    exact congrArg Except.ok ((congrArg storeBlock (cipher_invCipher ..)).trans (storeBlock_loadBlock b))

end Sys2Proof.Machine
end

section
/-! The programs against the sequences (spec R144, R163, R184): the words of a program, run one after another, are the sequence of
its command. -/

namespace Sys2Proof.Machine

/-! ### Running words one after another -/

/-- The word `u` decoded and run, where no stop came before it. -/
def runWord (v : Variant) (o : Host.Outcome State Fault Refusal) (u : BitVec 8) : Host.Outcome State Fault Refusal :=
  match o, decode v (.uop u) with
  | .next a, .ok i => exec i a
  | o, _ => o

theorem runWord_next {v : Variant} {u : BitVec 8} {i : Instr} (hd : decodeUop v u = .ok i) (s : State) :
    runWord v (.next s) u = exec i s := by
  simp only [runWord, decode, hd]

/-- The words `us`, run one after another, apply `f` to the matrix in `ST` and change nothing else. -/
def State.Applies (s : State) (us : List (BitVec 8)) (f : Grid Byte → Grid Byte) : Prop :=
  ∀ m, us.foldl (runWord s.params.variant) (.next (s.holding m)) = .next (s.holding (f m))

section Applies

variable {s : State} {us vs : List (BitVec 8)} {f g : Grid Byte → Grid Byte}

theorem State.Applies.nil : s.Applies [] id := fun _ => rfl

theorem State.Applies.word {u : BitVec 8} {i : Instr} (hd : decodeUop s.params.variant u = .ok i)
    (hx : ∀ m, exec i (s.holding m) = .next (s.holding (f m))) : s.Applies [u] f :=
  fun m => (runWord_next hd _).trans (hx m)

theorem State.Applies.append (hf : s.Applies us f) (hg : s.Applies vs g) : s.Applies (us ++ vs) (g ∘ f) := fun m => by
  rw [List.foldl_append, hf, hg, Function.comp_apply]

theorem State.Applies.cons {u : BitVec 8} (hf : s.Applies [u] f) (hg : s.Applies us g) : s.Applies (u :: us) (g ∘ f) :=
  hf.append hg

/-- A group of words for each of `n` rounds. -/
theorem State.Applies.rounds {n : Nat} {group : Nat → List (BitVec 8)} {f : Nat → Grid Byte → Grid Byte}
    (h : ∀ j < n, s.Applies (group j) (f j)) :
    s.Applies ((List.range n).flatMap group) fun m => (List.range n).foldl (fun m j => f j m) m := by
  induction n with
  | zero => exact .nil
  | succ n ih =>
    have hinit := ih fun j hj => h j (Nat.lt_succ_of_lt hj)
    have hlast := h n (Nat.lt_succ_self n)
    intro m
    rw [List.range_succ, List.flatMap_append, List.flatMap_singleton, hinit.append hlast]
    simp only [List.foldl_concat, Function.comp_apply]

end Applies

/-! ### The programs run the sequences (R144, R163, R184) -/

section Words

variable (s : State)

theorem applies_subbytes : s.Applies [0x30] (subBytes s.params.sbox) := .word rfl fun _ => exec_subbytes_of_st rfl

theorem applies_shiftrows : s.Applies [0x40] shiftRows := .word rfl fun _ => exec_shiftrows_of_st rfl

theorem applies_mixcolumns : s.Applies [0x50] mixColumns := .word rfl fun _ => exec_mixcolumns_of_st rfl

theorem applies_invsubbytes : s.Applies [0x60] (invSubBytes s.params.sbox) := .word rfl fun _ => exec_invsubbytes_of_st rfl

theorem applies_invshiftrows : s.Applies [0x70] invShiftRows := .word rfl fun _ => exec_invshiftrows_of_st rfl

theorem applies_invmixcolumns : s.Applies [0x80] invMixColumns := .word rfl fun _ => exec_invmixcolumns_of_st rfl

end Words

section Schedule

variable {s : State} {ws : List Word} (hw : s.w = ws.map some) (hlen : ws.length = s.params.variant.nwords)
include hw hlen

theorem applies_addroundkey {r : Nat} (hr : r ≤ s.params.variant.nr) :
    s.Applies [0x20 ||| BitVec.ofNat 8 r] (addRoundKey (roundKey ws r)) := by
  have hrnd := roundOperand_toNat hr
  refine .word (decodeUop_round hr) fun m => exec_addroundkey_of_st (s := s.holding m) rfl (hrnd.trans_le hr) fun c => ?_
  show s.w[_]? = _
  rw [hrnd, hw]
  exact getElem?_roundKey hlen hr c

/-- Word by word, PROGRAM(0) is CIPHER as R144 lists it. -/
theorem applies_cipher :
    s.Applies (roundWords s.params.variant 0) (cipher s.params.variant s.params.sbox ws) := by
  have hkey {r : Nat} (hr : r ≤ s.params.variant.nr) := applies_addroundkey hw hlen hr
  have hround {j : Nat} (hj : j < s.params.variant.nr - 1) :
      s.Applies [0x30, 0x40, 0x50, 0x20 ||| BitVec.ofNat 8 (j + 1)] fun m => cipherRound s.params.sbox ws m (j + 1) :=
    (applies_subbytes s).cons ((applies_shiftrows s).cons ((applies_mixcolumns s).cons (hkey (by omega))))
  exact ((hkey (Nat.zero_le _)).append (.rounds fun _ => hround)).append
    ((applies_subbytes s).cons ((applies_shiftrows s).cons (hkey le_rfl)))

/-- Word by word, PROGRAM(1) is INVCIPHER as R163 lists it. -/
theorem applies_invCipher :
    s.Applies (roundWords s.params.variant 1) (invCipher s.params.variant s.params.sbox ws) := by
  have hkey {r : Nat} (hr : r ≤ s.params.variant.nr) := applies_addroundkey hw hlen hr
  have hround {j : Nat} (hj : j < s.params.variant.nr - 1) :
      s.Applies [0x70, 0x60, 0x20 ||| BitVec.ofNat 8 (s.params.variant.nr - (j + 1)), 0x80]
        fun m => invCipherRound s.params.sbox ws m (s.params.variant.nr - 1 - j) := by
    have hindex : s.params.variant.nr - (j + 1) = s.params.variant.nr - 1 - j := by omega
    rw [hindex]
    exact (applies_invshiftrows s).cons ((applies_invsubbytes s).cons ((hkey (by omega)).cons (applies_invmixcolumns s)))
  exact ((hkey le_rfl).append (.rounds fun _ => hround)).append
    ((applies_invshiftrows s).cons ((applies_invsubbytes s).cons (hkey (Nat.zero_le _))))

theorem applies_sequence (c : BitVec 1) :
    s.Applies (roundWords s.params.variant c) (sequence s.params.variant s.params.sbox c ws) := by
  by_cases hc : c = 0
  · subst hc
    exact applies_cipher hw hlen
  · obtain rfl : c = 1 := by revert c; decide
    exact applies_invCipher hw hlen

end Schedule

theorem program_drop_two_dropLast (v : Variant) (c : BitVec 1) : ((program v c).drop 2).dropLast = roundWords v c := by
  rw [program_eq, List.drop_succ_cons, List.drop_succ_cons, List.drop_zero, List.dropLast_concat]

theorem program_getLast? (v : Variant) (c : BitVec 1) : (program v c).getLast? = some 0x90 := by
  rw [program_eq, ← List.cons_append, ← List.cons_append, List.getLast?_concat]

/-- Settles O56: the sequence of a program applies the function of that name, from the matrix that `ST` holds. -/
theorem theProgramsRunTheSequences : Obligations.TheProgramsRunTheSequences := by
  refine ⟨fun v c => ⟨by rw [program_eq]; rfl, program_getLast? v c⟩, fun s m ws hst hw hlen => ?_⟩
  have hruns (c : BitVec 1) : (((program s.params.variant c).drop 2).dropLast).foldl (runWord s.params.variant) (.next s) =
      .next (s.holding (sequence s.params.variant s.params.sbox c ws m)) := by
    rw [program_drop_two_dropLast, ← applies_sequence hw hlen c m, holding_self hst]
  exact ⟨hruns 0, hruns 1⟩

end Sys2Proof.Machine
end

section
/-! The stepped machine against the transaction level (spec R188, R239): in RUN the steps run the words of the program, and the accept
step and UPLEN micro steps come to OPERATE. -/

namespace Sys2Proof.Machine

/-! ### Running words: the control fields, and the stops -/

theorem runWord_withControl (v : Variant) (x : State) (o : Host.Outcome State Fault Refusal) (u : BitVec 8) :
    runWord v (onNext (·.withControl x) o) u = onNext (·.withControl x) (runWord v o u) := by
  cases o with
  | next s =>
    cases hd : decodeUop v u with
    | ok i => simpa only [onNext_next, runWord_next hd] using exec_withControl (decodeUop_isMicro hd) s x
    | error why => simp only [onNext_next, runWord, decode, hd]
  | fault f => rfl
  | refused r => rfl

/-- Words run from a state with other control fields do the same to the rest of it. -/
theorem foldl_runWord_withControl {v : Variant} {us : List (BitVec 8)} {s t : State} (x : State)
    (h : us.foldl (runWord v) (.next s) = .next t) :
    us.foldl (runWord v) (.next (s.withControl x)) = .next (t.withControl x) := by
  have hom := List.foldl_hom (l := us) (onNext (·.withControl x)) (runWord_withControl v x) (init := .next s)
  rw [h] at hom
  exact hom

/-- Words that answer a next state were run from one: a stop stays. -/
theorem foldl_runWord_next {v : Variant} {us : List (BitVec 8)} {o : Host.Outcome State Fault Refusal} {t : State}
    (h : us.foldl (runWord v) o = .next t) : ∃ s, o = .next s := by
  induction us generalizing o with
  | nil => exact ⟨t, h⟩
  | cons u us ih =>
    obtain ⟨a, ha⟩ := ih h
    cases o with
    | next s => exact ⟨s, rfl⟩
    | fault f => cases ha
    | refused r => cases ha

theorem foldl_runWord_take {v : Variant} {us : List (BitVec 8)} {s t : State} {m n : Nat}
    (h : (us.take m).foldl (runWord v) (.next s) = .next t) (hn : n ≤ m) :
    ∃ a, (us.take n).foldl (runWord v) (.next s) = .next a := by
  rw [← List.take_append_drop n (us.take m), List.take_take, Nat.min_eq_left hn, List.foldl_append] at h
  exact foldl_runWord_next h

/-! ### The host between two steps (R191) -/

theorem undisturbed_of_step {s t : State} {n : Nat} (h : s.undisturbed (n + 1)) (hp : t.pins = s.script.headD s.pins)
    (hs : t.script = s.script.tail) (hb : t.bench = none) : t.undisturbed n := by
  obtain ⟨-, hr, hscript⟩ := h
  refine ⟨hb, ?_, fun p hmem => hscript p ?_⟩
  · rw [hp]
    cases hl : s.script with
    | nil => exact hr
    | cons p l => exact hscript p (by simp [hl])
  · rw [hs] at hmem
    cases hl : s.script with
    | nil => simp [hl] at hmem
    | cons q l =>
      rw [hl] at hmem
      exact List.mem_cons_of_mem q hmem

theorem endMicro_world (s : State) :
    s.endMicro.pins = s.script.headD s.pins ∧ s.endMicro.script = s.script.tail ∧ s.endMicro.bench = none := by
  rcases advance_cases s with ⟨-, ha⟩ | ⟨-, ha⟩ <;> rw [State.endMicro, ha] <;> exact ⟨rfl, rfl, rfl⟩

theorem undisturbed_mono {s : State} {m n : Nat} (h : s.undisturbed n) (hmn : m ≤ n) : s.undisturbed m := by
  obtain ⟨hb, hr, hscript⟩ := h
  exact ⟨hb, hr, fun p hp => hscript p (List.take_subset_take_left _ hmn hp)⟩

/-! ### The steps in RUN run the words of the program (R186) -/

/-- In RUN in front of index `k` of the program of `c`, undisturbed for `n` more steps. -/
structure State.AtIndex (s : State) (c : BitVec 1) (k n : Nat) : Prop where
  undisturbed : s.undisturbed n
  run : s.mode = .run
  cmd : s.rqCmd = some c
  upc : s.upc.toNat = k
  err : s.err = none

theorem State.AtIndex.mono {s : State} {c : BitVec 1} {k m n : Nat} (h : s.AtIndex c k n) (hmn : m ≤ n) : s.AtIndex c k m :=
  { h with undisturbed := undisturbed_mono h.undisturbed hmn }

theorem State.AtIndex.event {s : State} {c : BitVec 1} {k n : Nat} {u : BitVec 8} {i : Instr} (h : s.AtIndex c k n)
    (hu : (program s.params.variant c)[k]? = some u) (hd : decodeUop s.params.variant u = .ok i) : s.event = .micro i := by
  obtain ⟨hb, hr, -⟩ := h.undisturbed
  exact (event_run hr hb h.run).trans (microEvent_of_fetch h.cmd (h.upc ▸ hu) hd)

/-- A step in front of any index but the last does what its word does, and goes to the next index. -/
theorem State.AtIndex.step {s a : State} {c : BitVec 1} {k n : Nat} {u : BitVec 8} (h : s.AtIndex c k (n + 1))
    (hk : k < s.params.variant.uplen - 1) (hu : (program s.params.variant c)[k]? = some u)
    (hx : runWord s.params.variant (.next s) u = .next a) :
    ∃ t, Machine.step s = .next t ∧ t = a.withControl t ∧ t.params = s.params ∧ t.AtIndex c (k + 1) n := by
  obtain ⟨i, hd⟩ := decodeUop_of_mem_program (List.mem_of_getElem? hu)
  rw [runWord_next hd] at hx
  have hframe := exec_micro_frame (decodeUop_isMicro hd) hx
  obtain ⟨hmode, hupc, hpar⟩ := exec_micro_mode (decodeUop_isMicro hd) hx
  have hlt : a.upc.toNat < a.params.variant.uplen - 1 := by rwa [hupc, hpar, h.upc]
  have hend : a.endMicro = State.tick { a with upc := a.upc + 1 } := by rw [State.endMicro, advance_of_lt hlt]
  have hworld : a.endMicro.undisturbed n := by
    obtain ⟨hp, hs, hb⟩ := endMicro_world a
    exact undisturbed_of_step h.undisturbed (hp.trans (by rw [hframe])) (hs.trans (by rw [hframe])) hb
  refine ⟨a.endMicro, step_of_micro (h.event hu hd) hx, ?_, ?_, hworld, ?_, ?_, ?_, ?_⟩
  · rw [hend]; rfl
  · rw [hend]; exact hpar
  · rw [hend]; exact hmode.trans h.run
  · rw [hend, hframe]; exact h.cmd
  · rw [hend]; exact (upc_add_one_toNat hlt).trans (by rw [hupc, h.upc])
  · rw [hend, hframe]; exact h.err

/-- The steps from index `k` on do what the words from index `k` on do, up to the last index. -/
theorem State.AtIndex.run_words {c : BitVec 1} {n : Nat} : ∀ {s a : State} {k : Nat}, s.AtIndex c k n →
    k + n < s.params.variant.uplen →
    (((program s.params.variant c).drop k).take n).foldl (runWord s.params.variant) (.next s) = .next a →
    ∃ t, Sys2Proof.core.run n s = .next t ∧ t = a.withControl t ∧ t.AtIndex c (k + n) 0 := by
  induction n with
  | zero =>
    intro s a k h _ hx
    obtain rfl := Host.Outcome.next.inj hx
    exact ⟨s, rfl, rfl, h⟩
  | succ n ih =>
    intro s a k h hk hx
    have hlt : k < (program s.params.variant c).length := by rw [length_program]; omega
    rw [List.drop_eq_getElem_cons hlt, List.take_succ_cons, List.foldl_cons] at hx
    obtain ⟨a1, ha1⟩ := foldl_runWord_next hx
    obtain ⟨t, hstep, ht, hpar, hat⟩ := h.step (by omega) (List.getElem?_eq_getElem hlt) ha1
    rw [ha1] at hx
    have hrest := foldl_runWord_withControl t hx
    rw [← ht, ← hpar] at hrest
    obtain ⟨w, hrun, hw, hatw⟩ := ih hat (by rw [hpar]; omega) hrest
    exact ⟨w, (core_run_succ_of_next hstep).trans hrun, hw, by rwa [Nat.add_right_comm] at hatw⟩

/-! ### A whole program (R184, R187) -/

theorem program_dropLast (v : Variant) (c : BitVec 1) : (program v c).dropLast = 0x00 :: 0x10 :: roundWords v c := by
  rw [program_eq, ← List.cons_append, ← List.cons_append, List.dropLast_concat]

/-- All words of a program but STOREBLOCK: the block loaded, the key expanded, the sequence of the command. -/
theorem foldl_program_dropLast {s : State} {b : Seq16 Byte} {key : List Byte} (c : BitVec 1) (hb : s.rqBlock = b.map some)
    (hkey : s.rqKey = key.map some) (hlen : key.length = s.params.variant.keyBytes) :
    let ws := keyExpand s.params.variant s.params.sbox key
    ((program s.params.variant c).dropLast).foldl (runWord s.params.variant) (.next s) =
      .next ((s.writeW ws).writeSt (sequence s.params.variant s.params.sbox c ws (loadBlock b))) := by
  intro ws
  have hload : runWord s.params.variant (.next s) 0x00 = .next (s.writeSt (loadBlock b)) :=
    (runWord_next (i := .loadblock) rfl s).trans (exec_loadblock_next.mpr ⟨b, hb, rfl⟩)
  have hexpand : runWord s.params.variant (.next (s.writeSt (loadBlock b))) 0x10 = .next ((s.writeSt (loadBlock b)).writeW ws) :=
    (runWord_next (i := .keyexpand) rfl _).trans (exec_keyexpand_next.mpr ⟨key, hkey, hlen, rfl⟩)
  rw [program_dropLast, List.foldl_cons, hload, List.foldl_cons, hexpand]
  exact applies_sequence (s := s.writeW ws) rfl (length_keyExpand ..) c (loadBlock b)

/-- A run reaches what one step makes of its end. -/
theorem core_run_concat {n : Nat} {s u t : State} (h : Sys2Proof.core.run n s = .next u) (hs : step u = .next t) :
    Sys2Proof.core.run (n + 1) s = .next t := by
  induction n generalizing s with
  | zero =>
    obtain rfl := Host.Outcome.next.inj h
    exact core_run_succ_of_next hs
  | succ n ih =>
    obtain ⟨w, hw, hrest⟩ := core_run_succ_next h
    rw [core_run_succ_of_next hw]
    exact ih hrest

/-- The last step of a program stores the matrix and completes. -/
theorem State.AtIndex.store {s : State} {c : BitVec 1} {m : Grid Byte} (h : s.AtIndex c (s.params.variant.uplen - 1) 0)
    (hst : s.st = m.map some) :
    ∃ t, Machine.step s = .next t ∧ t.mode = .done ∧ t.err = none ∧ t.out = (storeBlock m).map some := by
  have hu : (program s.params.variant c)[s.params.variant.uplen - 1]? = some 0x90 := by
    rw [← length_program _ c, ← List.getLast?_eq_getElem?, program_getLast?]
  have hx : exec .storeblock s = .next (s.writeOut (storeBlock m)) := exec_storeblock_next.mpr ⟨m, hst, rfl⟩
  refine ⟨_, step_of_micro (h.event hu rfl) hx, ?_⟩
  rw [State.endMicro, advance_of_last (s := s.writeOut (storeBlock m)) h.upc]
  exact ⟨rfl, h.err, rfl⟩

/-- From index 0, with a request of the variant's key length latched, the program runs to its end: in RUN at every index, then in
DONE. -/
theorem State.AtIndex.run_program {s : State} {c : BitVec 1} {b : Seq16 Byte} {key : List Byte}
    (h : s.AtIndex c 0 (s.params.variant.uplen - 1)) (hb : s.rqBlock = b.map some) (hkey : s.rqKey = key.map some)
    (hlen : key.length = s.params.variant.keyBytes) :
    (∀ n ≤ s.params.variant.uplen - 1, ∃ u, Sys2Proof.core.run n s = .next u ∧ u.mode = .run ∧ u.err = none) ∧
      ∃ t, Sys2Proof.core.run s.params.variant.uplen s = .next t ∧ t.mode = .done ∧ t.err = none ∧
        t.out = (storeBlock (sequence s.params.variant s.params.sbox c (keyExpand s.params.variant s.params.sbox key)
          (loadBlock b))).map some := by
  have hmin := le_uplen s.params.variant
  have hall := foldl_program_dropLast c hb hkey hlen
  rw [List.dropLast_eq_take, length_program] at hall
  refine ⟨fun n hn => ?_, ?_⟩
  · obtain ⟨a, ha⟩ := foldl_runWord_take hall hn
    obtain ⟨u, hrun, -, hat⟩ := (h.mono hn).run_words (by omega) ha
    exact ⟨u, hrun, hat.run, hat.err⟩
  · obtain ⟨u, hrun, hu, hat⟩ := h.run_words (by omega) hall
    have hpar : u.params = s.params := by rw [hu]; rfl
    rw [Nat.zero_add, ← hpar] at hat
    obtain ⟨t, hstep, hend⟩ := hat.store (by rw [hu]; rfl)
    have hrun' := core_run_concat hrun hstep
    rw [Nat.sub_add_cancel (by omega)] at hrun'
    exact ⟨t, hrun', hend⟩

/-! ### OPERATE (R188) -/

/-- The block of a request with a legal block length is the sixteen bytes of the port (R45, R62). -/
theorem blockOfList_requestBlockBytes {s : State} (h : s.pins.blockLen.toNat = 16) :
    blockOfList s.requestBlockBytes = unpackBlock s.pins.blockIn :=
  Seq16.ext_get fun i => by
    rw [unpackBlock_get, blockOfList, Seq16.get_ofFn, State.requestBlockBytes, h]
    simp

theorem requestKeyBytes_eq {s : State} (h : s.pins.keyLen.toNat = s.params.variant.keyBytes) :
    s.requestKeyBytes = s.requestKey := by
  rw [State.requestKeyBytes, h, State.requestKey]

/-- The accept step of a legal request, and the world's move, lead to index 0 of the command's program. -/
theorem atIndex_zero_of_accept {s : State} {n : Nat} (c : BitVec 1) (h : s.undisturbed (n + 1)) :
    (s.startRun c).tick.AtIndex c 0 n :=
  ⟨undisturbed_of_step h rfl rfl rfl, rfl, rfl, rfl, rfl⟩

/-- Settles O52: both levels test the lengths alike; a legal request starts the program, which the steps run to its end. -/
theorem theSteppedMachineComputesOperate : Obligations.TheSteppedMachineComputesOperate := by
  intro s hm hq hund
  have ⟨hb, hr, _⟩ := hund
  have hmin := le_uplen s.params.variant
  have hstep := step_accept hr hb hm hq
  have hlens : lengthError s.params.variant s.requestKeyBytes.length s.requestBlockBytes.length =
      lengthError s.params.variant s.pins.keyLen.toNat s.pins.blockLen.toNat := by
    simp [State.requestKeyBytes, State.requestBlockBytes]
  cases he : lengthError s.params.variant s.pins.keyLen.toNat s.pins.blockLen.toNat with
  | some e =>
    rw [operate_error _ (hlens.trans he)]
    rw [accept_error _ hm he] at hstep
    exact ⟨_, core_run_succ_of_next hstep, rfl, rfl, rfl⟩
  | none =>
    obtain ⟨hk, hblock⟩ := lengthError_eq_none.mp he
    rw [operate_ok _ (hlens.trans he), requestKeyBytes_eq hk, blockOfList_requestBlockBytes hblock]
    rw [accept_legal _ hm he] at hstep
    have hstart : (s.startRun s.pins.cmd).tick.AtIndex s.pins.cmd 0 (s.params.variant.uplen - 1) :=
      atIndex_zero_of_accept _ (by rwa [Nat.sub_add_cancel (by omega)])
    obtain ⟨hrun, t, hend, hdone, herr, hout⟩ := hstart.run_program rfl rfl (by simp [State.requestKey])
    refine ⟨fun j h1 hj => ?_, t, ?_, hdone, herr, hout, blockOut_of_done hdone hout⟩
    · obtain ⟨k, rfl⟩ := Nat.exists_eq_add_of_le' h1
      obtain ⟨u, hu, hmode⟩ := hrun k (Nat.le_sub_one_of_lt hj)
      exact ⟨u, (core_run_succ_of_next hstep).trans hu, hmode⟩
    · rw [Nat.add_comm]
      exact (core_run_succ_of_next hstep).trans hend

end Sys2Proof.Machine
end
